-- ==== Sys2Proof/Word.lean ====
section
/-! DEFINITION. The widths of the unit, by name (spec/00_scope.md R7: every bit vector is unsigned, bit 0 is the least significant).

There is no arithmetic here: byte order, slices and the CRC step are in Machine/Ops.lean. -/

namespace Sys2Proof

/-- A byte: an operand field of a command, a byte of a frame, an 8-bit register (R7). -/
abbrev Byte := BitVec 8

/-- 32 bits: a command word (R80), a CRC remainder (R11, R20), the trailer register (R19). -/
abbrev Word := BitVec 32

/-- 64 bits: `TIMESTAMP`, `LENGTH`, `PREM` (R17, R23). -/
abbrev Dword := BitVec 64

/-- 128 bits: an identifier register (R24), and the data of a response (R84). -/
abbrev Qword := BitVec 128

end Sys2Proof
end

