-- ==== Sys2Proof/Syntax.lean ====
section
/-! DEFINITION. The nine commands (spec/30_encoding.md R82), one constructor per row of spec/opcode_table.json, and the rows
themselves with their `match` and `mask` numbers. -/

namespace Sys2Proof

/-- A command of the unit. Operand bytes are unsigned values used as they are (R80). -/
inductive Instr where
  /-- `CRC.INIT` (40_crc.md R106). -/
  | crcInit
  /-- `CRC.UPD c`, `c` the data byte (40_crc.md R107). -/
  | crcUpd (c : Byte)
  /-- `CRC.GET` (40_crc.md R108). -/
  | crcGet
  /-- `FP.START` (42_frame_parser.md R142). -/
  | fpStart
  /-- `FP.BYTE c`, `c` the next byte of the frame (42_frame_parser.md R143). -/
  | fpByte (c : Byte)
  /-- `FP.END` (42_frame_parser.md R150). -/
  | fpEnd
  /-- `PD.DEC a, b`, `a` the `MessageType` byte, `b` the `Protocol` byte (41_presence.md R125). -/
  | pdDec (a b : Byte)
  /-- `PD.VAL a, b, c`, `c` the header length (41_presence.md R126). -/
  | pdVal (a b c : Byte)
  /-- `RD c`, `c` a register number (43_system.md R170). A number that names no register is still this command (R83). -/
  | rd (c : Byte)
  deriving DecidableEq, Repr

/-- The four formats of R81: which operand fields a command uses. -/
inductive Format where
  | z
  | b
  | p2
  | p3
  deriving DecidableEq, Repr

/-- One row of the opcode map (R82). -/
structure OpcodeRow where
  mnemonic : String
  format : Format
  matchBits : Word
  maskBits : Word
  deriving DecidableEq, Repr

/-- A word is the command of a row exactly when `(w and mask) == match` (R82). -/
def OpcodeRow.covers (r : OpcodeRow) (w : Word) : Bool := (w &&& r.maskBits) == r.matchBits

/-- The row of each command, as the table of R82 writes it. -/
def Instr.row : Instr → OpcodeRow
  | .crcInit => ⟨"CRC.INIT", .z, 0x01000000, 0xFFFFFFFF⟩
  | .crcUpd _ => ⟨"CRC.UPD", .b, 0x02000000, 0xFFFFFF00⟩
  | .crcGet => ⟨"CRC.GET", .z, 0x03000000, 0xFFFFFFFF⟩
  | .fpStart => ⟨"FP.START", .z, 0x10000000, 0xFFFFFFFF⟩
  | .fpByte _ => ⟨"FP.BYTE", .b, 0x11000000, 0xFFFFFF00⟩
  | .fpEnd => ⟨"FP.END", .z, 0x12000000, 0xFFFFFFFF⟩
  | .pdDec _ _ => ⟨"PD.DEC", .p2, 0x20000000, 0xFF0000FF⟩
  | .pdVal _ _ _ => ⟨"PD.VAL", .p3, 0x21000000, 0xFF000000⟩
  | .rd _ => ⟨"RD", .b, 0x30000000, 0xFFFFFF00⟩

/-- The opcode map of R82, in the table's order. -/
def opcodeTable : List OpcodeRow :=
  [Instr.crcInit.row, (Instr.crcUpd 0).row, Instr.crcGet.row, Instr.fpStart.row, (Instr.fpByte 0).row, Instr.fpEnd.row,
   (Instr.pdDec 0 0).row, (Instr.pdVal 0 0 0).row, (Instr.rd 0).row]

end Sys2Proof
end

