-- ==== Sys2Proof/WellFormed.lean ====
section
/-! DEFINITION. Well-formedness of a command.

The spec puts its checks on the command WORD: the opcode is one of nine, and the fields its format does not use are zero
(spec/30_encoding.md R81, R83). So the checks are on `CommandWord`, the word's four fields; a term of `Instr` is well formed
when the fields it stands for pass them. Every operand byte is admitted, a register number that names no register among them
(R83), so every term of `Instr` is well formed. -/

namespace Sys2Proof

/-- The four 8-bit fields of a command word (R80). -/
structure CommandWord where
  /-- bits 31:24 -/
  op : Byte
  /-- bits 23:16 -/
  a : Byte
  /-- bits 15:8 -/
  b : Byte
  /-- bits 7:0 -/
  c : Byte
  deriving DecidableEq, Repr

/-- The format of an opcode, or none where `op` names no command (R81, R82, R83). -/
def formatOf (op : Byte) : Option Format :=
  match op.toNat with
  | 0x01 => some .z
  | 0x02 => some .b
  | 0x03 => some .z
  | 0x10 => some .z
  | 0x11 => some .b
  | 0x12 => some .z
  | 0x20 => some .p2
  | 0x21 => some .p3
  | 0x30 => some .b
  | _ => none

/-- The fields a format does not use are zero (R81). -/
def CommandWord.unusedZero (f : CommandWord) : Format → Bool
  | .z => f.a == 0 && f.b == 0 && f.c == 0
  | .b => f.a == 0 && f.b == 0
  | .p2 => f.c == 0
  | .p3 => true

/-- The word is a command: its opcode is listed and its unused fields are zero (R83). -/
def CommandWord.wf (f : CommandWord) : Bool :=
  match formatOf f.op with
  | some k => f.unusedZero k
  | none => false

/-- The fields a command stands for (R80, R81, R82). -/
def Instr.fields : Instr → CommandWord
  | .crcInit => ⟨0x01, 0, 0, 0⟩
  | .crcUpd c => ⟨0x02, 0, 0, c⟩
  | .crcGet => ⟨0x03, 0, 0, 0⟩
  | .fpStart => ⟨0x10, 0, 0, 0⟩
  | .fpByte c => ⟨0x11, 0, 0, c⟩
  | .fpEnd => ⟨0x12, 0, 0, 0⟩
  | .pdDec a b => ⟨0x20, a, b, 0⟩
  | .pdVal a b c => ⟨0x21, a, b, c⟩
  | .rd c => ⟨0x30, 0, 0, c⟩

/-- A command is well formed when its fields are. -/
def Instr.wf (i : Instr) : Bool := i.fields.wf

end Sys2Proof
end

