-- ==== Sys2Proof/Decode.lean ====
section
/-! DEFINITION. The command decoder, total on every 32-bit word and rejecting by name, and after it the encoder
(spec/30_encoding.md R80 to R83). -/

namespace Sys2Proof

/-- Why a word is no command (R83). -/
inductive IllegalWord where
  /-- `op` is none of the nine opcodes. -/
  | unknownOpcode (op : Byte)
  /-- `op` is an opcode, and a field its format does not use is not zero. -/
  | unusedFieldNotZero (op : Byte)
  deriving DecidableEq, Repr

/-- The fields of a word, where R80 puts them. -/
def splitWord (w : Word) : CommandWord where
  op := w.extractLsb' 24 8
  a := w.extractLsb' 16 8
  b := w.extractLsb' 8 8
  c := w.extractLsb' 0 8

/-- The word of four fields, `op` in the high bits (R80). -/
def joinWord (f : CommandWord) : Word := f.op ++ f.a ++ f.b ++ f.c

/-- The command of an opcode, with the operands its format takes (R82). -/
def commandOf (f : CommandWord) : Option Instr :=
  match f.op.toNat with
  | 0x01 => some .crcInit
  | 0x02 => some (.crcUpd f.c)
  | 0x03 => some .crcGet
  | 0x10 => some .fpStart
  | 0x11 => some (.fpByte f.c)
  | 0x12 => some .fpEnd
  | 0x20 => some (.pdDec f.a f.b)
  | 0x21 => some (.pdVal f.a f.b f.c)
  | 0x30 => some (.rd f.c)
  | _ => none

/-- Decode a command word (R82, R83): an unlisted opcode and a non-zero unused field are rejected, each by its name. -/
def decode (w : Word) : Except IllegalWord Instr :=
  let f := splitWord w
  match commandOf f with
  | none => .error (.unknownOpcode f.op)
  | some i => if f.wf then .ok i else .error (.unusedFieldNotZero f.op)

/-- The word of a command (R80, R82). -/
def encode (i : Instr) : Word := joinWord i.fields

/-- The decoder under the numbering of spec/opcode_table.json: a command is ONE 32-bit word, so bit `k` of `w` is bit `k` of the
word. Bits above `nbits` are 0. A number that does not fit 32 bits is no command word. -/
def decodeTableWord (nbits w : Nat) : Option Instr :=
  let v := w % 2 ^ nbits
  if v < 2 ^ 32 then
    match decode (BitVec.ofNat 32 v) with
    | .ok i => some i
    | .error _ => none
  else none

end Sys2Proof
end

