-- ==== Sys2Proof/Config.lean ====
section
/-! DEFINITION. The parameters of the unit (spec/00_scope.md R6).

A parameter whose ground is the source document is a constant. A parameter whose ground is a decision of the spec or
general knowledge is a field of `Config`, as R6 asks, so that a theorem shows which of them it rests on; `Config.spec` holds
the values R6 shows, and the unit's commands run at `Config.spec`. No parameter is a free value: nothing here is opaque. -/

namespace Sys2Proof

/-- `PREFIX_LEN`: the header length prefix is one byte (R6, source). -/
def prefixLen : Nat := 1
/-- `HDR_BASE` = 16+16+8+8+1+1+1+1 (R6, source). -/
def hdrBase : Nat := 52
/-- `RECV_LEN` (R6, source). -/
def recvLen : Nat := 16
/-- `SEQ_LEN` (R6, source). -/
def seqLen : Nat := 4
/-- `HDR_MIN` (R6, source). -/
def hdrMin : Nat := 52
/-- `HDR_MAX` (R6, source); also the size of `HBUF` (R16). -/
abbrev hdrMax : Nat := 72
/-- `TRAILER_LEN` (R6, source). -/
def trailerLen : Nat := 4

/-- The parameters of R6 that are a decision of the spec or general knowledge. -/
structure Config where
  /-- `CRC_POLY`, the polynomial in normal form, `x^32` implied (R100; D5, general knowledge). -/
  crcPoly : Word
  /-- `CRC_POLY_R`, the same bits reversed (R100; D5, general knowledge). -/
  crcPolyR : Word
  /-- `CRC_INIT` (R100; D5). -/
  crcInit : Word
  /-- `CRC_REFIN`: a byte is taken least significant bit first (R43, R100; D5). -/
  crcRefIn : Bool
  /-- `CRC_REFOUT`: the code is reflected (R43, R100; D5). -/
  crcRefOut : Bool
  /-- `CRC_XOROUT` (R100; D5). -/
  crcXorOut : Word
  /-- Header offset of `Flags` (R62; conflict C1, D6). -/
  offFlags : Nat
  /-- Header offset of `MessageType` (R62; conflict C1, D6). -/
  offMsgType : Nat
  /-- Header offset of `Router` (R62; D6). -/
  offRouter : Nat
  /-- Header offset of `Protocol` (R62; D6). -/
  offProtocol : Nat
  /-- Order of the optional blocks: `Receiver` before `Sequence` when both are present (R63; D7). -/
  receiverFirst : Bool
  /-- `MT_UNKNOWN` (R65; D8). -/
  mtUnknown : Byte
  /-- `MT_DATA` (R65; D8). -/
  mtData : Byte
  /-- `MT_BROADCAST` (R65; D8). -/
  mtBroadcast : Byte
  /-- `MT_HEARTBEAT` (R65; D8). -/
  mtHeartbeat : Byte
  /-- `PROTO_STREAM` (R65; D8). -/
  protoStream : Byte
  /-- `PROTO_DATAGRAM` (R65; D8). -/
  protoDatagram : Byte
  /-- `FLAG_NONE`; the unit never reads a flag (R65; D8). -/
  flagNone : Byte
  /-- `FLAG_ACK` (R65; D8). -/
  flagAck : Byte
  /-- `FLAG_ERROR` (R65; D8). -/
  flagError : Byte
  /-- `FLAG_COMPRESSED` (R65; D8). -/
  flagCompressed : Byte
  /-- `FLAG_ENCRYPTED` (R65; D8). -/
  flagEncrypted : Byte
  deriving DecidableEq, Repr

/-- The values of R6: the unit of the spec. -/
def Config.spec : Config where
  crcPoly := 0x04C11DB7
  crcPolyR := 0xEDB88320
  crcInit := 0xFFFFFFFF
  crcRefIn := true
  crcRefOut := true
  crcXorOut := 0xFFFFFFFF
  offFlags := 48
  offMsgType := 49
  offRouter := 50
  offProtocol := 51
  receiverFirst := true
  mtUnknown := 0
  mtData := 1
  mtBroadcast := 2
  mtHeartbeat := 3
  protoStream := 0
  protoDatagram := 1
  flagNone := 0x00
  flagAck := 0x01
  flagError := 0x02
  flagCompressed := 0x04
  flagEncrypted := 0x08

/-- What a choice of parameters must satisfy to describe the wire format of R62: the four control bytes stand at the header
offsets 48 to 51, each at its own, and the two forms of the polynomial are the same bits (R100). -/
def Config.wf (cfg : Config) : Bool :=
  decide (cfg.offFlags ∈ [48, 49, 50, 51]) && decide (cfg.offMsgType ∈ [48, 49, 50, 51]) &&
  decide (cfg.offRouter ∈ [48, 49, 50, 51]) && decide (cfg.offProtocol ∈ [48, 49, 50, 51]) &&
  decide [cfg.offFlags, cfg.offMsgType, cfg.offRouter, cfg.offProtocol].Nodup &&
  decide (cfg.crcPolyR = cfg.crcPoly.reverse)

end Sys2Proof
end

