-- ==== Sys2Proof/Machine/State.lean ====
section
/-! DEFINITION. The state of the unit (spec/10_state.md R10 to R33): every register of R32, the outputs of the last step, and
the inputs the host has yet to present. Plain data throughout. -/

namespace Sys2Proof.Machine

/-- `PHASE` (R12): where in a frame the parser stands. A 3-bit register that takes exactly these seven values; their codes are
`Phase.code` (Flags.lean). -/
inductive Phase where
  /-- 0 `IDLE`: no frame started since reset. -/
  | idle
  /-- 1 `PREFIX`: the next byte is the header length prefix. -/
  | lenPrefix
  /-- 2 `HEADER`: `HCNT` of `HLEN` header bytes have been read. -/
  | header
  /-- 3 `PAYLOAD`: the header decoded; `PREM` payload bytes are still to come. -/
  | payload
  /-- 4 `TRAILER`: `TCNT` of 4 trailer bytes have been read. -/
  | trailer
  /-- 5 `DONE`: the trailer matched. -/
  | done
  /-- 6 `ERR`: the frame failed. -/
  | err
  deriving DecidableEq, Repr

/-- `ERR` (R13): the error code of the failed frame; the codes are `ErrCode.code` (Flags.lean). -/
inductive ErrCode where
  /-- 0 `NONE` -/
  | none
  /-- 1 `TRUNCATED_FRAME` -/
  | truncatedFrame
  /-- 2 `DECODE_ERROR` -/
  | decodeError
  /-- 3 `CHECKSUM_MISMATCH` -/
  | checksumMismatch
  deriving DecidableEq, Repr

/-- The seven error kinds of the source (spec/60_exceptions.md R180, R182). The unit raises the first three; the others are
raised by the encoder or a transport, never by the unit. -/
inductive ErrorKind where
  | truncatedFrame
  | decodeError
  | checksumMismatch
  /-- raised by the encoder when handed no header -/
  | encodeError
  /-- also named MessageTooLarge; raised by `buildFrame` for a datagram -/
  | frameTooLarge
  /-- raised by a transport -/
  | timeoutError
  /-- raised by a transport -/
  | channelClosed
  deriving DecidableEq, Repr

/-- A decoded header: the ten fields of R23, an identifier packed with wire byte 0 in bits 127:120 (R24). -/
structure Header where
  id : Qword
  sender : Qword
  receiver : Qword
  timestamp : Dword
  length : Dword
  sequence : Word
  flags : Byte
  msgType : Byte
  router : Byte
  protocol : Byte
  deriving DecidableEq, Repr

/-- The header whose ten fields are zero. -/
def Header.zero : Header := ⟨0, 0, 0, 0, 0, 0, 0, 0, 0, 0⟩

/-- The 2-bit response code (spec/30_encoding.md R84); the numbers are `RespCode.code` (Flags.lean). -/
inductive RespCode where
  /-- 0 `OK` -/
  | ok
  /-- 1 `ILLEGAL` -/
  | illegal
  /-- 2 `IGNORED` -/
  | ignored
  /-- 3 `NOTVALID` -/
  | notValid
  deriving DecidableEq, Repr

/-- The response of a step (R84): a code and 128 bits of data. -/
structure Response where
  code : RespCode
  data : Qword
  deriving DecidableEq, Repr

/-- What the outside can do to the unit: present a command word at the port (R47), or pulse the reset input `rst` (R200). -/
inductive HostInput where
  | command (w : Word)
  | reset
  deriving DecidableEq, Repr

/-- The state of the unit. The three groups of R10 are `crcAcc`; the parser's working registers `phase` to `payload`; and the
result registers `hdr`. -/
structure State where
  /-- `CRC_ACC` (R11), the host accumulator, before the final exclusive-or. -/
  crcAcc : Word
  /-- `PHASE` (R12). -/
  phase : Phase
  /-- `ERR` (R13). -/
  err : ErrCode
  /-- `HLEN` (R14), the header length prefix of the current frame. -/
  hlen : Byte
  /-- `HCNT` (R15), header bytes received. -/
  hcnt : Byte
  /-- `HBUF` (R16), the first 72 header bytes. -/
  hbuf : Vector Byte hdrMax
  /-- `PREM` (R17), payload bytes still to come. -/
  prem : Dword
  /-- `TCNT` (R18), trailer bytes received. -/
  tcnt : BitVec 3
  /-- `TRAILER` (R19). -/
  trailer : Word
  /-- `RX_CRC` (R20), the frame's running remainder, before the final exclusive-or. -/
  rxCrc : Word
  /-- `HAS_RECV` (R21). -/
  hasRecv : Bool
  /-- `HAS_SEQ` (R21). -/
  hasSeq : Bool
  /-- `SURPLUS` (R21). -/
  surplus : Bool
  /-- `PAYLOAD` (R26), the payload bytes received so far in this frame: the spec's model state, not a buffer of the unit. -/
  payload : List Byte
  /-- The ten result registers (R23). -/
  hdr : Header
  /-- The response of the last step (R84); none after reset (R200). An output, held here because a step answers a state. -/
  resp : Option Response
  /-- The `pay` output of the last step (R27); none after reset (R200). An output, held here like `resp`. -/
  pay : Option Byte
  /-- The MODEL's own field: the inputs the host has yet to present, in the order it presents them (R47). -/
  port : List HostInput
  deriving DecidableEq, Repr

/-- Why a step stops with a fault. NO constructor: no rule of the spec stops the unit. A frame error is a change of state
(R184), and an illegal word is answered and changes nothing (R189). -/
inductive Fault where
  deriving DecidableEq, Repr

/-- Why a step has no meaning. -/
inductive Refusal where
  /-- Raised by no arm of `exec`: every command has its meaning. It would be safe (a refusal proves nothing false). -/
  | notModelled (mnemonic : String)
  deriving DecidableEq, Repr

/-- The state after reset, at a choice of parameters: the last column of the table of R32, the outputs of R200, and no input
pending (a choice of the model, log entry 1). -/
def State.resetAt (cfg : Config) : State where
  crcAcc := cfg.crcInit
  phase := .idle
  err := .none
  hlen := 0
  hcnt := 0
  hbuf := Vector.replicate hdrMax 0
  prem := 0
  tcnt := 0
  trailer := 0
  rxCrc := cfg.crcInit
  hasRecv := false
  hasSeq := false
  surplus := false
  payload := []
  hdr := Header.zero
  resp := none
  pay := none
  port := []

/-- The unit right after reset (R32, R200). -/
def State.reset : State := State.resetAt Config.spec

end Sys2Proof.Machine
end

