-- ==== Sys2Proof/Machine/Flags.lean ====
section
/-! DEFINITION. The codes of the registers and responses, the `STATUS` view, the two level outputs, and the views that stand in
the place of a program counter: the frame offset and the place of a failure. The unit has three flags (spec/10_state.md R21) and
no arithmetic condition codes. -/

namespace Sys2Proof.Machine

/-- The 3-bit value of `PHASE` (10_state.md R12). -/
def Phase.code : Phase → BitVec 3
  | .idle => 0
  | .lenPrefix => 1
  | .header => 2
  | .payload => 3
  | .trailer => 4
  | .done => 5
  | .err => 6

/-- The 3-bit value of `ERR` (10_state.md R13). -/
def ErrCode.code : ErrCode → BitVec 3
  | .none => 0
  | .truncatedFrame => 1
  | .decodeError => 2
  | .checksumMismatch => 3

/-- The 2-bit response code (30_encoding.md R84). -/
def RespCode.code : RespCode → BitVec 2
  | .ok => 0
  | .illegal => 1
  | .ignored => 2
  | .notValid => 3

/-- The error kind an `ERR` code stands for; `NONE` stands for none (60_exceptions.md R180). -/
def ErrCode.kind : ErrCode → Option ErrorKind
  | .none => Option.none
  | .truncatedFrame => some .truncatedFrame
  | .decodeError => some .decodeError
  | .checksumMismatch => some .checksumMismatch

/-- The `STATUS` view (10_state.md R22): `PHASE` in bits 2:0, `ERR` in 5:3, `HAS_RECV` 6, `HAS_SEQ` 7, `SURPLUS` 8, zeros above. -/
def State.status (s : State) : Word :=
  (0 : BitVec 23) ++ BitVec.ofBool s.surplus ++ BitVec.ofBool s.hasSeq ++ BitVec.ofBool s.hasRecv ++ s.err.code ++ s.phase.code

/-- The output `done` (10_state.md R28). -/
def State.doneOut (s : State) : Bool := s.phase == .done

/-- The output `err` (10_state.md R28). -/
def State.errOut (s : State) : Bool := s.phase == .err

/-- The frame offset of the next byte the parser expects (10_state.md R29): a natural number, not stored. The table of R29 has no
row for `IDLE` and `ERR`. -/
def State.frameOffset (s : State) : Option Nat :=
  match s.phase with
  | .idle => none
  | .lenPrefix => some 0
  | .header => some (1 + s.hcnt.toNat)
  | .payload => some (1 + s.hlen.toNat + (s.hdr.length.toNat - s.prem.toNat))
  | .trailer => some (1 + s.hlen.toNat + s.hdr.length.toNat + s.tcnt.toNat)
  | .done => some (1 + s.hlen.toNat + s.hdr.length.toNat + 4)
  | .err => none

/-- The phase a truncated frame had reached, recomputed from the working registers (60_exceptions.md R193). -/
def State.truncatedIn (s : State) : Phase :=
  if s.hlen = 0 then .lenPrefix
  else if s.hcnt < s.hlen then .header
  else if 1 ≤ s.prem.toNat then .payload
  else .trailer

/-- Where the failure of a frame happened, recomputed from the working registers (60_exceptions.md R193): the frame offset of
the byte that raised `DECODE_ERROR` or `CHECKSUM_MISMATCH`; for `TRUNCATED_FRAME`, the number of bytes that had been received. -/
def State.failureOffset (s : State) : Option Nat :=
  match s.err with
  | .none => none
  | .decodeError => some s.hlen.toNat
  | .checksumMismatch => some (s.hlen.toNat + s.hdr.length.toNat + 4)
  | .truncatedFrame => ({ s with phase := s.truncatedIn } : State).frameOffset

end Sys2Proof.Machine
end

