-- ==== Sys2Proof/Machine/Ops.lean ====
section
/-! DEFINITION. The shared operations: byte order and slices, the CRC step, the presence function and the header decoder, the
response and the outputs of a step, the entry into the error state and the two ways out of it, and the input port.

Each operation takes the parameters of spec/00_scope.md R6 as an argument where it rests on one. -/

namespace Sys2Proof.Machine

/-! ### Byte sequences (00_scope.md R7, 20_memory.md R42) -/

/-- `BE_n(s)` (R7): the unsigned number of a byte sequence, most significant byte first. -/
def beNat (s : List Byte) : Nat := s.foldl (fun acc b => acc * 256 + b.toNat) 0

/-- `be_n(v)` (R7): the `n` bytes of `v`, most significant first. -/
def beBytes : Nat → Nat → List Byte
  | 0, _ => []
  | n + 1, v => BitVec.ofNat 8 (v / 256 ^ n) :: beBytes n v

/-- `s[i:j]` (R7): the bytes `i` to `j-1`. -/
def slice (s : List Byte) (i j : Nat) : List Byte := (s.drop i).take (j - i)

/-- `s[i]` (R7). Every use is at an index below the length; elsewhere it reads 0. -/
def byteAt (s : List Byte) (i : Nat) : Byte := s.getD i 0

/-- `MemRead(off, n)` (R8, R41): the bytes `raw[off : off+n]` of a frame. -/
def memRead (raw : List Byte) (off n : Nat) : List Byte := slice raw off (off + n)

/-! ### The CRC (40_crc.md R100 to R103) -/

/-- One of the eight shift steps of `crc_step` (R101), least significant bit first. -/
def crcShift (cfg : Config) (acc : Word) : Word :=
  if acc.getLsbD 0 then (acc >>> 1) ^^^ cfg.crcPolyR else acc >>> 1

/-- The unreflected shift step, for `CRC_REFIN = false` only (log entry 4); the unit never takes it. -/
def crcShiftMsb (cfg : Config) (acc : Word) : Word :=
  if acc.getLsbD 31 then (acc <<< 1) ^^^ cfg.crcPoly else acc <<< 1

/-- `f` applied `n` times. -/
def repeatTimes (f : Word → Word) : Nat → Word → Word
  | 0, x => x
  | n + 1, x => repeatTimes f n (f x)

/-- `crc_step(acc, b)` (R101): fold one byte into a remainder. -/
def crcStep (cfg : Config) (acc : Word) (b : Byte) : Word :=
  if cfg.crcRefIn then repeatTimes (crcShift cfg) 8 (acc ^^^ b.setWidth 32)
  else repeatTimes (crcShiftMsb cfg) 8 (acc ^^^ (b.setWidth 32 <<< 24))

/-- The remainder left by folding a byte sequence in order (R102). -/
def crcFold (cfg : Config) (acc : Word) (s : List Byte) : Word := s.foldl (crcStep cfg) acc

/-- From remainder to code (R102): the final exclusive-or with `CRC_XOROUT`. Reversing first, where `CRC_REFOUT` differs from
`CRC_REFIN`, is log entry 4; the unit never does. -/
def crcFinish (cfg : Config) (acc : Word) : Word :=
  (if cfg.crcRefOut = cfg.crcRefIn then acc else acc.reverse) ^^^ cfg.crcXorOut

/-- `crc32(s)` (R102). -/
def crc32 (cfg : Config) (s : List Byte) : Word := crcFinish cfg (crcFold cfg cfg.crcInit s)

/-- The table entry `T[i] = crc_step(0, i)` (R103). -/
def crcTableEntry (cfg : Config) (i : Byte) : Word := crcStep cfg 0 i

/-- The table form of `crc_step` (R103). -/
def crcStepByTable (cfg : Config) (acc : Word) (b : Byte) : Word :=
  (acc >>> 8) ^^^ crcTableEntry cfg ((acc ^^^ b.setWidth 32).extractLsb' 0 8)

/-! ### Presence and header decode (41_presence.md R120 to R124) -/

/-- is-broadcast, for decoding (R120): the raw byte equals `MT_BROADCAST`. -/
def isBroadcast (cfg : Config) (mt : Byte) : Bool := mt == cfg.mtBroadcast

/-- is-datagram (R121): the raw byte equals `PROTO_DATAGRAM`. -/
def isDatagram (cfg : Config) (pr : Byte) : Bool := pr == cfg.protoDatagram

/-- The result `(r, s, n)` of `presence` (R122). -/
structure Presence where
  recv : Bool
  seq : Bool
  len : Nat
  deriving DecidableEq, Repr

/-- `presence(mt, pr)` (R122). -/
def presence (cfg : Config) (mt pr : Byte) : Presence where
  recv := isBroadcast cfg mt
  seq := isDatagram cfg pr
  len := hdrBase + (if isBroadcast cfg mt then recvLen else 0) + (if isDatagram cfg pr then seqLen else 0)

/-- Header offset of the `Receiver` block (30_encoding.md R63). -/
def recvOffset (cfg : Config) (p : Presence) : Nat :=
  if cfg.receiverFirst then hdrBase else hdrBase + (if p.seq then seqLen else 0)

/-- Header offset of the `Sequence` block (30_encoding.md R63). -/
def seqOffset (cfg : Config) (p : Presence) : Nat :=
  if cfg.receiverFirst then hdrBase + (if p.recv then recvLen else 0) else hdrBase

/-- What `decodeHeader` returns (R124): the header record, `r` and `s`. -/
structure Decoded where
  hdr : Header
  recv : Bool
  seq : Bool
  deriving DecidableEq, Repr

/-- The header record read from the bytes `hb` under a presence `p` (R124; offsets R62, R63; assembly R66; absent blocks read
zero, D16). -/
def headerFields (cfg : Config) (p : Presence) (hb : List Byte) : Header where
  id := BitVec.ofNat 128 (beNat (slice hb 0 16))
  sender := BitVec.ofNat 128 (beNat (slice hb 16 32))
  timestamp := BitVec.ofNat 64 (beNat (slice hb 32 40))
  length := BitVec.ofNat 64 (beNat (slice hb 40 48))
  flags := byteAt hb cfg.offFlags
  msgType := byteAt hb cfg.offMsgType
  router := byteAt hb cfg.offRouter
  protocol := byteAt hb cfg.offProtocol
  receiver :=
    if p.recv then BitVec.ofNat 128 (beNat (slice hb (recvOffset cfg p) (recvOffset cfg p + recvLen))) else 0
  sequence :=
    if p.seq then BitVec.ofNat 32 (beNat (slice hb (seqOffset cfg p) (seqOffset cfg p + seqLen))) else 0

/-- `decodeHeader(hb)` (R124): refused when the length is out of bounds or is not the length the control bytes imply, and for
nothing else. -/
def decodeHeader (cfg : Config) (hb : List Byte) : Except ErrorKind Decoded :=
  if hb.length < hdrMin ∨ hdrMax < hb.length then .error .decodeError
  else
    let p := presence cfg (byteAt hb cfg.offMsgType) (byteAt hb cfg.offProtocol)
    if p.len ≠ hb.length then .error .decodeError
    else .ok ⟨headerFields cfg p hb, p.recv, p.seq⟩

/-! ### The outputs of a step -/

/-- `respond(code, data)` (30_encoding.md R84). -/
def State.respond (s : State) (code : RespCode) (data : Qword) : State := { s with resp := some ⟨code, data⟩ }

/-- `pay` is empty in this step (10_state.md R27). -/
def State.quiet (s : State) : State := { s with pay := none }

/-- `emit pay(b)` (00_scope.md R8, 10_state.md R27). -/
def State.emit (s : State) (b : Byte) : State := { s with pay := some b }

/-- The response of every `FP.*` command (10_state.md R22, 42_frame_parser.md R141): `STATUS` as it stands after the step. -/
def State.respondStatus (s : State) (code : RespCode) : State := s.respond code (s.status.setWidth 128)

/-! ### The error state: entry, and the two ways out -/

/-- `fail(E)` (60_exceptions.md R184), the entry into the error state: `PHASE <- ERR; ERR <- E`. Nothing else changes, and
updates made earlier in the step stand. -/
def State.fail (s : State) (e : ErrCode) : State := { s with phase := .err, err := e }

/-- What `FP.START` writes (42_frame_parser.md R142): every parser register is cleared and the next frame is open. It is the one
command that leaves the error state (60_exceptions.md R185). -/
def State.openFrame (cfg : Config) (s : State) : State :=
  { s with
    phase := .lenPrefix, err := .none,
    hlen := 0, hcnt := 0, hbuf := Vector.replicate hdrMax 0,
    prem := 0, tcnt := 0, trailer := 0,
    rxCrc := cfg.crcInit,
    hasRecv := false, hasSeq := false, surplus := false,
    hdr := Header.zero, payload := [] }

/-- The reset input (70_reset_and_hazards.md R200): every register takes its value of 10_state.md R32 and the outputs are empty. The
inputs the host has yet to present stay. -/
def State.takeReset (cfg : Config) (s : State) : State := { State.resetAt cfg with port := s.port }

/-! ### The command port -/

/-- The step of an illegal command word (60_exceptions.md R189): no state change, no `pay`, response `(ILLEGAL, 0)`. -/
def State.illegal (s : State) : State := s.quiet.respond .illegal 0

/-- The next input at the port, and the state without it (20_memory.md R47); none where the host has presented nothing. -/
def State.takeInput (s : State) : Option (HostInput × State) :=
  match s.port with
  | [] => none
  | x :: rest => some (x, { s with port := rest })

/-- The host presents a command word ahead of the inputs still pending. -/
def State.present (s : State) (w : Word) : State := { s with port := .command w :: s.port }

end Sys2Proof.Machine
end

