-- ==== Sys2Proof/Machine/Operands.lean ====
section
/-! DEFINITION. The operand forms. A command's operands are bytes used as they are (spec/30_encoding.md R80); the one form with a
meaning of its own is the register number of `RD` (43_system.md R171, R172). -/

namespace Sys2Proof.Machine

/-- A register number of the table of R171. -/
inductive RegName where
  | status | hlen | hcnt | prem | tcnt | trailer | rxCrc | crcAcc
  | id | sender | receiver | timestamp | length | sequence | flags | msgType | router | protocol
  deriving DecidableEq, Repr

/-- The register a number names; none for `0x08` to `0x0F` and `0x1A` to `0xFF` (R171). -/
def regOfNumber (c : Byte) : Option RegName :=
  match c.toNat with
  | 0x00 => some .status
  | 0x01 => some .hlen
  | 0x02 => some .hcnt
  | 0x03 => some .prem
  | 0x04 => some .tcnt
  | 0x05 => some .trailer
  | 0x06 => some .rxCrc
  | 0x07 => some .crcAcc
  | 0x10 => some .id
  | 0x11 => some .sender
  | 0x12 => some .receiver
  | 0x13 => some .timestamp
  | 0x14 => some .length
  | 0x15 => some .sequence
  | 0x16 => some .flags
  | 0x17 => some .msgType
  | 0x18 => some .router
  | 0x19 => some .protocol
  | _ => none

/-- The number of a register (R171). -/
def RegName.number : RegName → Byte
  | .status => 0x00
  | .hlen => 0x01
  | .hcnt => 0x02
  | .prem => 0x03
  | .tcnt => 0x04
  | .trailer => 0x05
  | .rxCrc => 0x06
  | .crcAcc => 0x07
  | .id => 0x10
  | .sender => 0x11
  | .receiver => 0x12
  | .timestamp => 0x13
  | .length => 0x14
  | .sequence => 0x15
  | .flags => 0x16
  | .msgType => 0x17
  | .router => 0x18
  | .protocol => 0x19

/-- The column "Gated" of R171: the ten result registers (R172). -/
def RegName.gated : RegName → Bool
  | .status => false
  | .hlen => false
  | .hcnt => false
  | .prem => false
  | .tcnt => false
  | .trailer => false
  | .rxCrc => false
  | .crcAcc => false
  | .id => true
  | .sender => true
  | .receiver => true
  | .timestamp => true
  | .length => true
  | .sequence => true
  | .flags => true
  | .msgType => true
  | .router => true
  | .protocol => true

/-- The value of a register, zero-extended to 128 bits (R170, R171). The two CRC registers are returned raw, before the final
exclusive-or. -/
def State.regValue (s : State) : RegName → Qword
  | .status => s.status.setWidth 128
  | .hlen => s.hlen.setWidth 128
  | .hcnt => s.hcnt.setWidth 128
  | .prem => s.prem.setWidth 128
  | .tcnt => s.tcnt.setWidth 128
  | .trailer => s.trailer.setWidth 128
  | .rxCrc => s.rxCrc.setWidth 128
  | .crcAcc => s.crcAcc.setWidth 128
  | .id => s.hdr.id
  | .sender => s.hdr.sender
  | .receiver => s.hdr.receiver
  | .timestamp => s.hdr.timestamp.setWidth 128
  | .length => s.hdr.length.setWidth 128
  | .sequence => s.hdr.sequence.setWidth 128
  | .flags => s.hdr.flags.setWidth 128
  | .msgType => s.hdr.msgType.setWidth 128
  | .router => s.hdr.router.setWidth 128
  | .protocol => s.hdr.protocol.setWidth 128

/-- What `RD c` answers (R170): `ILLEGAL` for a number that names no register, `NOTVALID` for a result register outside `DONE`, the
value otherwise. -/
def State.readRegister (s : State) (c : Byte) : Response :=
  match regOfNumber c with
  | none => ⟨.illegal, 0⟩
  | some r => if r.gated = true ∧ s.phase ≠ .done then ⟨.notValid, 0⟩ else ⟨.ok, s.regValue r⟩

end Sys2Proof.Machine
end

