-- ==== Sys2Proof/Machine/Crc.lean ====
section
/-! DEFINITION. The CRC commands (spec/40_crc.md R106 to R108). They touch `CRC_ACC` only and are legal in every phase. -/

namespace Sys2Proof.Machine

/-- `CRC.INIT` at a choice of parameters (R106). -/
def crcInitAt (cfg : Config) (s : State) : State := ({ s with crcAcc := cfg.crcInit }).quiet.respond .ok 0

/-- `CRC.UPD c` at a choice of parameters (R107). -/
def crcUpdAt (cfg : Config) (c : Byte) (s : State) : State :=
  ({ s with crcAcc := crcStep cfg s.crcAcc c }).quiet.respond .ok 0

/-- `CRC.GET` at a choice of parameters (R108). -/
def crcGetAt (cfg : Config) (s : State) : State := s.quiet.respond .ok ((crcFinish cfg s.crcAcc).setWidth 128)

/-- `CRC.INIT` (R106). -/
def execCrcInit (s : State) : Host.Outcome State Fault Refusal := .next (crcInitAt Config.spec s)

/-- `CRC.UPD c` (R107). -/
def execCrcUpd (c : Byte) (s : State) : Host.Outcome State Fault Refusal := .next (crcUpdAt Config.spec c s)

/-- `CRC.GET` (R108). -/
def execCrcGet (s : State) : Host.Outcome State Fault Refusal := .next (crcGetAt Config.spec s)

end Sys2Proof.Machine
end

