-- ==== Sys2Proof/Machine/FrameParser.lean ====
section
/-! DEFINITION. The frame parser's commands (spec/42_frame_parser.md R142 to R150, R152). Each phase of `FP.BYTE` has a definition of
its own, named after its rule's phase. -/

namespace Sys2Proof.Machine

/-- Header completion (R146): decode `HBUF[0 : HLEN]`; refused, the frame fails and the flags and result registers keep their
cleared values; decoded, the result registers, the presence flags and `PREM` are written and the payload begins, or the trailer
where `Length` is 0. -/
def State.headerComplete (cfg : Config) (s : State) : State :=
  if s.hlen.toNat < hdrMin ∨ hdrMax < s.hlen.toNat then s.fail .decodeError
  else
    match decodeHeader cfg (slice s.hbuf.toList 0 s.hlen.toNat) with
    | .error _ => s.fail .decodeError
    | .ok d =>
      { s with
        hdr := d.hdr, hasRecv := d.recv, hasSeq := d.seq, prem := d.hdr.length,
        phase := if d.hdr.length = 0#64 then .trailer else .payload }

/-- `if HCNT == HLEN: header_complete()` (R144, R145). -/
def State.completeIfFull (cfg : Config) (s : State) : State :=
  if s.hcnt = s.hlen then s.headerComplete cfg else s

/-- `FP.BYTE c` in `PREFIX` (R144). -/
def State.prefixByte (cfg : Config) (c : Byte) (s : State) : State :=
  ({ s with hlen := c, hcnt := 0#8, phase := .header }).completeIfFull cfg

/-- `FP.BYTE c` in `HEADER` (R145): the byte is stored where its offset is below 72, and counted. -/
def State.headerByte (cfg : Config) (c : Byte) (s : State) : State :=
  ({ s with hbuf := s.hbuf.setIfInBounds s.hcnt.toNat c, hcnt := s.hcnt + 1#8 }).completeIfFull cfg

/-- `FP.BYTE c` in `PAYLOAD` (R147): folded into the checksum, passed out, counted. -/
def State.payloadByte (cfg : Config) (c : Byte) (s : State) : State :=
  let t := ({ s with rxCrc := crcStep cfg s.rxCrc c, payload := s.payload ++ [c], prem := s.prem - 1#64 }).emit c
  if t.prem = 0#64 then { t with phase := .trailer } else t

/-- `FP.BYTE c` in `TRAILER` (R148): shifted in, counted, and with the fourth byte compared. -/
def State.trailerByte (cfg : Config) (c : Byte) (s : State) : State :=
  let t := { s with trailer := (s.trailer <<< 8) ||| c.setWidth 32, tcnt := s.tcnt + 1#3 }
  if t.tcnt = 4#3 then
    if t.trailer = crcFinish cfg t.rxCrc then { t with phase := .done } else t.fail .checksumMismatch
  else t

/-- `FP.BYTE c` in `DONE` (R149): a surplus byte; the byte is dropped. -/
def State.surplusByte (s : State) : State := { s with surplus := true }

/-- `FP.START` at a choice of parameters (R142). -/
def fpStartAt (cfg : Config) (s : State) : State := (s.openFrame cfg).quiet.respondStatus .ok

/-- `FP.BYTE c` at a choice of parameters (R143). -/
def fpByteAt (cfg : Config) (c : Byte) (s : State) : State :=
  match s.phase with
  | .idle => s.quiet.respondStatus .ignored
  | .lenPrefix => (s.quiet.prefixByte cfg c).respondStatus .ok
  | .header => (s.quiet.headerByte cfg c).respondStatus .ok
  | .payload => (s.quiet.payloadByte cfg c).respondStatus .ok
  | .trailer => (s.quiet.trailerByte cfg c).respondStatus .ok
  | .done => s.quiet.surplusByte.respondStatus .ok
  | .err => s.quiet.respondStatus .ignored

/-- `FP.END` (R150). -/
def fpEndAt (s : State) : State :=
  match s.phase with
  | .idle => s.quiet.respondStatus .ignored
  | .lenPrefix => (s.quiet.fail .truncatedFrame).respondStatus .ok
  | .header => (s.quiet.fail .truncatedFrame).respondStatus .ok
  | .payload => (s.quiet.fail .truncatedFrame).respondStatus .ok
  | .trailer => (s.quiet.fail .truncatedFrame).respondStatus .ok
  | .done => s.quiet.respondStatus .ok
  | .err => s.quiet.respondStatus .ignored

/-- `FP.START` (R142). -/
def execFpStart (s : State) : Host.Outcome State Fault Refusal := .next (fpStartAt Config.spec s)

/-- `FP.BYTE c` (R143). -/
def execFpByte (c : Byte) (s : State) : Host.Outcome State Fault Refusal := .next (fpByteAt Config.spec c s)

/-- `FP.END` (R150). -/
def execFpEnd (s : State) : Host.Outcome State Fault Refusal := .next (fpEndAt s)

end Sys2Proof.Machine
end

