-- ==== Sys2Proof/Machine/Presence.lean ====
section
/-! DEFINITION. The presence commands (spec/41_presence.md R125, R126). Pure: they write no register and are legal in every
phase. -/

namespace Sys2Proof.Machine

/-- The ten bits `{s, r, n[7:0]}` of R125, `s` in bit 9 and `r` in bit 8. -/
def presenceBits (p : Presence) : BitVec 10 := BitVec.ofBool p.seq ++ BitVec.ofBool p.recv ++ BitVec.ofNat 8 p.len

/-- `valid` of R126: the length is in bounds and is the length the control bytes imply. -/
def lengthValid (p : Presence) (c : Byte) : Bool :=
  decide (hdrMin ≤ c.toNat) && decide (c.toNat ≤ hdrMax) && decide (p.len = c.toNat)

/-- `PD.DEC a, b` at a choice of parameters (R125). -/
def pdDecAt (cfg : Config) (a b : Byte) (s : State) : State :=
  s.quiet.respond .ok ((presenceBits (presence cfg a b)).setWidth 128)

/-- `PD.VAL a, b, c` at a choice of parameters (R126): `valid` is bit 10. -/
def pdValAt (cfg : Config) (a b c : Byte) (s : State) : State :=
  let p := presence cfg a b
  s.quiet.respond .ok ((BitVec.ofBool (lengthValid p c) ++ presenceBits p).setWidth 128)

/-- `PD.DEC a, b` (R125). -/
def execPdDec (a b : Byte) (s : State) : Host.Outcome State Fault Refusal := .next (pdDecAt Config.spec a b s)

/-- `PD.VAL a, b, c` (R126). -/
def execPdVal (a b c : Byte) (s : State) : Host.Outcome State Fault Refusal := .next (pdValAt Config.spec a b c s)

end Sys2Proof.Machine
end

