-- ==== Sys2Proof/Machine/System.lean ====
section
/-! DEFINITION. The system command `RD` (spec/43_system.md R170 to R172). -/

namespace Sys2Proof.Machine

/-- `RD c` (R170): it writes no register. -/
def rdAt (c : Byte) (s : State) : State := s.quiet.respond (s.readRegister c).code (s.readRegister c).data

/-- `RD c` (R170). -/
def execRd (c : Byte) (s : State) : Host.Outcome State Fault Refusal := .next (rdAt c s)

end Sys2Proof.Machine
end

