-- ==== Sys2Proof/Machine/Dispatch.lean ====
section
/-! DEFINITION. One arm per command (spec/30_encoding.md R82). -/

namespace Sys2Proof.Machine

def exec (i : Instr) (s : State) : Host.Outcome State Fault Refusal :=
  match i with
  | .crcInit => Sys2Proof.Machine.execCrcInit s
  | .crcUpd c => Sys2Proof.Machine.execCrcUpd c s
  | .crcGet => Sys2Proof.Machine.execCrcGet s
  | .fpStart => Sys2Proof.Machine.execFpStart s
  | .fpByte c => Sys2Proof.Machine.execFpByte c s
  | .fpEnd => Sys2Proof.Machine.execFpEnd s
  | .pdDec a b => Sys2Proof.Machine.execPdDec a b s
  | .pdVal a b c => Sys2Proof.Machine.execPdVal a b c s
  | .rd c => Sys2Proof.Machine.execRd c s

end Sys2Proof.Machine
end

