-- ==== Sys2Proof/Machine/Step.lean ====
section
/-! DEFINITION. One step of the unit: it takes the next input at the port (spec/20_memory.md R47, R51).

A command word is decoded and run (R82); an illegal word is answered `ILLEGAL` (R189); a reset pulse resets (R200); with no input
pending the unit waits and nothing changes (R208: no step moves the parser on without a command). -/

namespace Sys2Proof.Machine

def step (s : State) : Host.Outcome State Fault Refusal :=
  match s.takeInput with
  | none => .next s
  | some (.reset, t) => .next (t.takeReset Config.spec)
  | some (.command w, t) =>
    match decode w with
    | .error _ => .next t.illegal
    | .ok i => exec i t

/-- `s` with a command word of the table's numbering presented at the port as the next input (log entry 1). A command is one 32-bit
word, so bits above bit 31 do not exist. -/
def State.withFetchWord (s : State) (nbits w : Nat) : State := s.present (BitVec.ofNat 32 (w % 2 ^ nbits))

end Sys2Proof.Machine
end

