-- ==== Sys2Proof/Machine/Reference.lean ====
section
/-! DEFINITION. The reference functions of the spec, pure functions of byte sequences: the parser function `parseFrame`
(spec/42_frame_parser.md R140), and the producers of the bytes the unit receives: the reference encoder, the frame builder, the
legacy encoder and what the transports put into a header (30_encoding.md R73 to R76). The unit runs none of them (00_scope.md R4). -/

namespace Sys2Proof.Machine

/-! ### The parser function -/

/-- What `parseFrame` returns (R140), with the `r` and `s` of the header decode beside the header. -/
structure ParsedFrame where
  hdr : Header
  recv : Bool
  seq : Bool
  payload : List Byte
  surplus : Bool
  deriving DecidableEq, Repr

/-- The second half of `parseFrame`, after the header has decoded (R140): sizes over the natural numbers (D12). -/
def parseBody (cfg : Config) (raw : List Byte) (l : Nat) (d : Decoded) : Except ErrorKind ParsedFrame :=
  let len := d.hdr.length.toNat
  if raw.length < 1 + l + len + trailerLen then .error .truncatedFrame
  else if crc32 cfg (memRead raw (1 + l) len) ≠ BitVec.ofNat 32 (beNat (memRead raw (1 + l + len) trailerLen)) then
    .error .checksumMismatch
  else .ok ⟨d.hdr, d.recv, d.seq, memRead raw (1 + l) len, decide (1 + l + len + trailerLen < raw.length)⟩

/-- `parseFrame(raw)` (R140). -/
def parseFrame (cfg : Config) (raw : List Byte) : Except ErrorKind ParsedFrame :=
  match raw with
  | [] => .error .truncatedFrame
  | b :: _ =>
    if raw.length < prefixLen + b.toNat then .error .truncatedFrame
    else
      match decodeHeader cfg (memRead raw 1 b.toNat) with
      | .error e => .error e
      | .ok d => parseBody cfg raw b.toNat d

/-! ### The encoder -/

/-- "if h.Timestamp == 0: h.Timestamp <- now" (R73). -/
def fillTimestamp (now : Dword) (h : Header) : Header := if h.timestamp = 0 then { h with timestamp := now } else h

/-- The control byte at header offset `o` (R62). -/
def controlByte (cfg : Config) (h : Header) (o : Nat) : Byte :=
  if o = cfg.offFlags then h.flags
  else if o = cfg.offMsgType then h.msgType
  else if o = cfg.offRouter then h.router
  else h.protocol

/-- The fixed 52 bytes of the encoded header (R62). -/
def fixedHeader (cfg : Config) (h : Header) : List Byte :=
  beBytes 16 h.id.toNat ++ beBytes 16 h.sender.toNat ++ beBytes 8 h.timestamp.toNat ++ beBytes 8 h.length.toNat ++
    [controlByte cfg h 48, controlByte cfg h 49, controlByte cfg h 50, controlByte cfg h 51]

/-- The optional blocks that are present, in their order (R63). -/
def optionalBlocks (cfg : Config) (recv seq : Bool) (h : Header) : List Byte :=
  let r := if recv then beBytes recvLen h.receiver.toNat else []
  let s := if seq then beBytes seqLen h.sequence.toNat else []
  if cfg.receiverFirst then r ++ s else s ++ r

/-- The broadcast predicate of the reference encoder (R73, D9): the decoder's. -/
def recvPresent (cfg : Config) (h : Header) : Bool := isBroadcast cfg h.msgType

/-- The broadcast predicate of the legacy encoder (R75): broadcast, and the receiver is not the zero identifier. -/
def legacyRecvPresent (cfg : Config) (h : Header) : Bool := isBroadcast cfg h.msgType && h.receiver != 0

/-- An encoder under a broadcast predicate `r` (R73, R75); no header is an `EncodeError`. -/
def encodeUnder (cfg : Config) (r : Header → Bool) (h : Option Header) (now : Dword) : Except ErrorKind (List Byte) :=
  match h with
  | none => .error .encodeError
  | some h =>
    let h := fillTimestamp now h
    .ok (fixedHeader cfg h ++ optionalBlocks cfg (r h) (isDatagram cfg h.protocol) h)

/-- `encodeHeader(h, now)` (R73). -/
def encodeHeader (cfg : Config) (h : Option Header) (now : Dword) : Except ErrorKind (List Byte) :=
  encodeUnder cfg (recvPresent cfg) h now

/-- The legacy encoder (R75). -/
def legacyEncodeHeader (cfg : Config) (h : Option Header) (now : Dword) : Except ErrorKind (List Byte) :=
  encodeUnder cfg (legacyRecvPresent cfg) h now

/-- The two transports (R9). -/
inductive Transport where
  | stream
  | datagram
  deriving DecidableEq, Repr

/-- "h.Length <- len(payload)" (R74). -/
def withLength (payload : List Byte) (h : Header) : Header := { h with length := BitVec.ofNat 64 payload.length }

/-- Lay a frame out (R60, R74). -/
def layFrame (cfg : Config) (hb payload : List Byte) : List Byte :=
  BitVec.ofNat 8 hb.length :: (hb ++ payload ++ beBytes trailerLen (crc32 cfg payload).toNat)

/-- A frame builder over an encoder (R74): the size guard is the datagram transport's, with the host's `MAX_FRAME`. -/
def buildUnder (enc : Option Header → Dword → Except ErrorKind (List Byte)) (cfg : Config) (tr : Transport) (maxFrame : Nat)
    (h : Option Header) (payload : List Byte) (now : Dword) : Except ErrorKind (List Byte) :=
  match enc (h.map (withLength payload)) now with
  | .error e => .error e
  | .ok hb =>
    let frame := layFrame cfg hb payload
    if tr = .datagram ∧ maxFrame < frame.length then .error .frameTooLarge else .ok frame

/-- `buildFrame(h, payload, now)` (R74). `len(payload)` must be below `2^64`. -/
def buildFrame (cfg : Config) (tr : Transport) (maxFrame : Nat) (h : Option Header) (payload : List Byte) (now : Dword) :
    Except ErrorKind (List Byte) :=
  buildUnder (encodeHeader cfg) cfg tr maxFrame h payload now

/-- `buildFrame` over the legacy encoder (R75). -/
def legacyBuildFrame (cfg : Config) (tr : Transport) (maxFrame : Nat) (h : Option Header) (payload : List Byte) (now : Dword) :
    Except ErrorKind (List Byte) :=
  buildUnder (legacyEncodeHeader cfg) cfg tr maxFrame h payload now

/-! ### What the transports put into the header (R76) -/

/-- The stream transport's `WriteFrame` overwrites nothing (R76). -/
def streamStamp (h : Header) : Header := h

/-- The datagram transport's `WriteFrame` overwrites `Sender`, `Protocol` and `Sequence` and increments its counter (R76). The counter
after `2^32 - 1` is not given: no next counter there (91_not_in_source.md N8, U8). -/
def datagramStamp (cfg : Config) (sender : Qword) (counter : Word) (h : Header) : Header × Option Word :=
  ({ h with sender := sender, protocol := cfg.protoDatagram, sequence := counter },
   if counter = BitVec.allOnes 32 then none else some (counter + 1))

end Sys2Proof.Machine
end

