-- ==== Sys2Proof/Machine/Program.lean ====
section
/-! DEFINITION. Command sequences: running one, the outputs seen on the way, the pseudo-commands (spec/30_encoding.md R86), and the
transports' `ReadFrame` as the host drives it (42_frame_parser.md R160 to R162). -/

namespace Sys2Proof.Machine

/-- Go on with `k` from the next state; a fault or a refusal ends. -/
def andThen {α β : Type} (o : Host.Outcome α Fault Refusal) (k : α → Host.Outcome β Fault Refusal) :
    Host.Outcome β Fault Refusal :=
  match o with
  | .next s => k s
  | .fault f => .fault f
  | .refused r => .refused r

/-- Run a command sequence in order (20_memory.md R47). -/
def runInstrs : List Instr → State → Host.Outcome State Fault Refusal
  | [], s => .next s
  | i :: rest, s => andThen (exec i s) (runInstrs rest)

/-- The response and `pay` output of each step of a command sequence, in order. -/
def outputs : List Instr → State → List (Option Response × Option Byte)
  | [], _ => []
  | i :: rest, s =>
    match exec i s with
    | .next t => (t.resp, t.pay) :: outputs rest t
    | .fault _ => []
    | .refused _ => []

/-- The bytes seen on `pay` (10_state.md R27). -/
def payBytes (is : List Instr) (s : State) : List Byte := (outputs is s).filterMap Prod.snd

/-- The responses, in order. -/
def responses (is : List Instr) (s : State) : List Response := (outputs is s).filterMap Prod.fst

/-! ### Pseudo-commands (R86) -/

/-- `CRC.BUF s`. -/
def crcBuf (bs : List Byte) : List Instr := .crcInit :: (bs.map .crcUpd ++ [.crcGet])

/-- `FP.FEED s`. -/
def fpFeed (bs : List Byte) : List Instr := bs.map .fpByte

/-- `FP.PARSE s`. -/
def fpParse (bs : List Byte) : List Instr := .fpStart :: (fpFeed bs ++ [.fpEnd])

/-- `STAT`. -/
def stat : List Instr := [.rd RegName.status.number]

/-- `FP.PARSE raw` at a choice of parameters (42_frame_parser.md R151). -/
def parseAt (cfg : Config) (raw : List Byte) (s : State) : State :=
  fpEndAt (raw.foldl (fun t c => fpByteAt cfg c t) (fpStartAt cfg s))

/-! ### `ReadFrame` on the unit (R160 to R162) -/

/-- "(header, payload)" as the caller of `ReadFrame` gets it (R162): the ten result registers with `HAS_RECV` and `HAS_SEQ`, and the
payload. -/
structure Received where
  hdr : Header
  recv : Bool
  seq : Bool
  payload : List Byte
  deriving DecidableEq, Repr

/-- What the caller of `ReadFrame` gets (R162): the header and the payload only when the unit ends in `DONE`, the error kind when it
ends in `ERR`; in any other phase the frame is not finished (R208) and there is nothing to give. -/
def State.readResult (s : State) : Option (Except ErrorKind Received) :=
  match s.phase with
  | .idle => none
  | .lenPrefix => none
  | .header => none
  | .payload => none
  | .trailer => none
  | .done => some (.ok ⟨s.hdr, s.hasRecv, s.hasSeq, s.payload⟩)
  | .err => s.err.kind.map Except.error

/-- The commands with which the host reads the header of a finished frame (R162, 43_system.md R171): `STATUS` for the two presence
flags, then the ten result registers in the order of their numbers. -/
def headerReads : List Instr :=
  [RegName.status, .id, .sender, .receiver, .timestamp, .length, .sequence, .flags, .msgType, .router, .protocol].map
    (fun r => .rd r.number)

/-- The header record, `HAS_RECV` and `HAS_SEQ` that the answers to `headerReads` stand for; none unless every answer is `OK`. -/
def headerOfReads (rs : List Response) : Option (Header × Bool × Bool) :=
  if rs.all (fun r => decide (r.code = .ok)) then
    match rs.map Response.data with
    | [st, id, sender, receiver, timestamp, length, sequence, flags, msgType, router, protocol] =>
      some (⟨id, sender, receiver, timestamp.setWidth 64, length.setWidth 64, sequence.setWidth 32, flags.setWidth 8,
        msgType.setWidth 8, router.setWidth 8, protocol.setWidth 8⟩, st.getLsbD 6, st.getLsbD 7)
    | _ => none
  else none

/-- Read exactly `n` bytes from a stream, never fewer; none where the stream ends first (R160). -/
def readExact (n : Nat) (stream : List Byte) : Option (List Byte × List Byte) :=
  if n ≤ stream.length then some (stream.take n, stream.drop n) else none

/-- The outcome of a stream read: the unit's state, the bytes left on the stream, and what the caller gets. -/
structure StreamRead where
  state : State
  rest : List Byte
  result : Option (Except ErrorKind Received)
  deriving DecidableEq, Repr

/-- The read ends here. -/
def endRead (rest : List Byte) (s : State) : Host.Outcome StreamRead Fault Refusal := .next ⟨s, rest, s.readResult⟩

/-- The stream ended during a read (R160): the bytes that came are fed (log entry 7), then `FP.END`. -/
def shortRead (came : List Byte) (s : State) : Host.Outcome StreamRead Fault Refusal :=
  andThen (runInstrs (fpFeed came ++ [.fpEnd]) s) (endRead [])

/-- The third read of a stream frame (R160): `PREM + 4` bytes. -/
def streamReadBody (stream : List Byte) (s : State) : Host.Outcome StreamRead Fault Refusal :=
  if s.phase = .err then endRead stream s
  else
    match readExact (s.prem.toNat + trailerLen) stream with
    | none => shortRead stream s
    | some (bs, rest) => andThen (runInstrs (fpFeed bs) s) (endRead rest)

/-- The second read of a stream frame (R160): `HLEN` bytes. -/
def streamReadHeader (stream : List Byte) (s : State) : Host.Outcome StreamRead Fault Refusal :=
  if s.phase = .err then endRead stream s
  else
    match readExact s.hlen.toNat stream with
    | none => shortRead stream s
    | some (bs, rest) => andThen (runInstrs (fpFeed bs) s) (streamReadBody rest)

/-- The stream transport's `ReadFrame` on the unit (R160): `FP.START`, then the three reads. -/
def streamReadFrame (stream : List Byte) (s : State) : Host.Outcome StreamRead Fault Refusal :=
  andThen (runInstrs [.fpStart] s) fun s0 =>
    match readExact prefixLen stream with
    | none => shortRead stream s0
    | some (bs, rest) => andThen (runInstrs (fpFeed bs) s0) (streamReadHeader rest)

/-- The datagram transport's `ReadFrame` on the unit (R161): `FP.PARSE` of the received bytes. -/
def datagramReadFrame (raw : List Byte) (s : State) : Host.Outcome StreamRead Fault Refusal :=
  andThen (runInstrs (fpParse raw) s) (endRead [])

end Sys2Proof.Machine
end

