-- ==== Sys2Proof/Machine/Assembler.lean ====
section
/-! DEFINITION. The assembler syntax of spec/30_encoding.md R85 and the pseudo-commands of R86, as a function from a line of text to the
commands it stands for. It is a notation for programs, no part of the unit. What R85 leaves open (spaces, a `;` inside quotes) is
log entry 8. -/

namespace Sys2Proof.Machine

/-- Space or tab. -/
def isBlank (c : Char) : Bool := c == ' ' || c == '\t'

/-- A line without blanks at its ends. -/
def trimBlanks (cs : List Char) : List Char := (((cs.dropWhile isBlank).reverse).dropWhile isBlank).reverse

/-- The quotation a character opens or closes: `q` is the quotation it stands in, if any. -/
def quoteAfter (q : Option Char) (c : Char) : Option Char :=
  match q with
  | none => if c == '\'' || c == '"' then some c else none
  | some d => if c == d then none else some d

/-- The line up to a `;` that stands in no quotation (R85: comments run from `;` to the end of the line). -/
def dropComment : Option Char → List Char → List Char
  | _, [] => []
  | q, c :: rest => if c == ';' && q == none then [] else c :: dropComment (quoteAfter q c) rest

/-- Split at the commas that stand in no quotation (R85: operands separated by commas). -/
def splitCommas : Option Char → List Char → List (List Char)
  | _, [] => [[]]
  | q, c :: rest =>
    if c == ',' && q == none then [] :: splitCommas none rest
    else
      match splitCommas (quoteAfter q c) rest with
      | [] => [[c]]
      | part :: parts => (c :: part) :: parts

/-- The value of a digit, in either case. -/
def digitValue (c : Char) : Option Nat :=
  if '0' ≤ c ∧ c ≤ '9' then some (c.toNat - 48)
  else if 'a' ≤ c ∧ c ≤ 'f' then some (c.toNat - 87)
  else if 'A' ≤ c ∧ c ≤ 'F' then some (c.toNat - 55)
  else none

/-- A number in a base, from a value already read. -/
def digitsFrom (base : Nat) : Nat → List Char → Option Nat
  | v, [] => some v
  | v, c :: rest =>
    match digitValue c with
    | none => none
    | some d => if d < base then digitsFrom base (v * base + d) rest else none

/-- A number in a base, of at least one digit. -/
def digits (base : Nat) (cs : List Char) : Option Nat := if cs = [] then none else digitsFrom base 0 cs

/-- A byte 0 to 255, or none. -/
def byteOfNat (n : Nat) : Option Byte := if n < 256 then some (BitVec.ofNat 8 n) else none

/-- A number operand (R85): `0x` hexadecimal, `0b` binary, a quoted ASCII character, or decimal. -/
def parseNumber (cs : List Char) : Option Byte :=
  match cs with
  | ['\'', c, '\''] => if c.toNat < 128 then byteOfNat c.toNat else none
  | '0' :: 'x' :: ds => (digits 16 ds).bind byteOfNat
  | '0' :: 'b' :: ds => (digits 2 ds).bind byteOfNat
  | ds => (digits 10 ds).bind byteOfNat

/-- The value a table of names gives a name. -/
def lookupName (table : List (String × Byte)) (cs : List Char) : Option Byte :=
  match table with
  | [] => none
  | (name, v) :: rest => if name.toList = cs then some v else lookupName rest cs

/-- The register names an `RD` may use (R85, R171). -/
def registerNames : List (String × Byte) :=
  [("STATUS", 0x00), ("HLEN", 0x01), ("HCNT", 0x02), ("PREM", 0x03), ("TCNT", 0x04), ("TRAILER", 0x05), ("RX_CRC", 0x06),
   ("CRC_ACC", 0x07), ("ID", 0x10), ("SENDER", 0x11), ("RECEIVER", 0x12), ("TIMESTAMP", 0x13), ("LENGTH", 0x14),
   ("SEQUENCE", 0x15), ("FLAGS", 0x16), ("MSGTYPE", 0x17), ("ROUTER", 0x18), ("PROTOCOL", 0x19)]

/-- The parameter names a `PD.DEC` or `PD.VAL` may use (R85, 00_scope.md R6). -/
def parameterNames (cfg : Config) : List (String × Byte) :=
  [("MT_UNKNOWN", cfg.mtUnknown), ("MT_DATA", cfg.mtData), ("MT_BROADCAST", cfg.mtBroadcast),
   ("MT_HEARTBEAT", cfg.mtHeartbeat), ("PROTO_STREAM", cfg.protoStream), ("PROTO_DATAGRAM", cfg.protoDatagram)]

/-- An operand: a number, or a name of the table. -/
def parseOperand (names : List (String × Byte)) (cs : List Char) : Option Byte :=
  match lookupName names cs with
  | some v => some v
  | none => parseNumber cs

/-- Every operand of a list, or none. -/
def parseOperands (names : List (String × Byte)) : List (List Char) → Option (List Byte)
  | [] => some []
  | cs :: rest =>
    match parseOperand names cs, parseOperands names rest with
    | some b, some bs => some (b :: bs)
    | _, _ => none

/-- The characters of a quoted string up to its closing quote, each ASCII, as bytes. -/
def quotedBytes : List Char → Option (List Byte)
  | [] => none
  | c :: rest =>
    if c == '"' then if rest = [] then some [] else none
    else if c.toNat < 128 then (quotedBytes rest).map (BitVec.ofNat 8 c.toNat :: ·)
    else none

/-- A byte sequence (R86): a quoted string or a list of numbers. -/
def parseBytes (cs : List Char) : Option (List Byte) :=
  match cs with
  | '"' :: rest => quotedBytes rest
  | [] => some []
  | cs => parseOperands [] ((splitCommas none cs).map trimBlanks)

/-- The operands of a command: none for an empty text. -/
def operandTexts (cs : List Char) : List (List Char) :=
  if cs = [] then [] else (splitCommas none cs).map trimBlanks

/-- A command of the opcode map from its mnemonic and the text of its operands (R82, R85). -/
def assembleCommand (cfg : Config) (m : List Char) (ops : List (List Char)) : Option Instr :=
  if m = "CRC.INIT".toList then (if ops = [] then some .crcInit else none)
  else if m = "CRC.UPD".toList then
    match parseOperands [] ops with
    | some [c] => some (.crcUpd c)
    | _ => none
  else if m = "CRC.GET".toList then (if ops = [] then some .crcGet else none)
  else if m = "FP.START".toList then (if ops = [] then some .fpStart else none)
  else if m = "FP.BYTE".toList then
    match parseOperands [] ops with
    | some [c] => some (.fpByte c)
    | _ => none
  else if m = "FP.END".toList then (if ops = [] then some .fpEnd else none)
  else if m = "PD.DEC".toList then
    match parseOperands (parameterNames cfg) ops with
    | some [a, b] => some (.pdDec a b)
    | _ => none
  else if m = "PD.VAL".toList then
    match parseOperands (parameterNames cfg) ops with
    | some [a, b, c] => some (.pdVal a b c)
    | _ => none
  else if m = "RD".toList then
    match parseOperands registerNames ops with
    | some [c] => some (.rd c)
    | _ => none
  else none

/-- A pseudo-command from its name and the text after it (R86). -/
def assemblePseudo (m arg : List Char) : Option (List Instr) :=
  if m = "CRC.BUF".toList then (parseBytes arg).map crcBuf
  else if m = "FP.FEED".toList then (parseBytes arg).map fpFeed
  else if m = "FP.PARSE".toList then (parseBytes arg).map fpParse
  else if m = "STAT".toList then (if arg = [] then some stat else none)
  else none

/-- The commands of one line (R85, R86): none where the line is no command; no command for a blank or comment line. -/
def assembleLine (cfg : Config) (line : String) : Option (List Instr) :=
  let text := trimBlanks (dropComment none line.toList)
  if text = [] then some []
  else
    let m := text.takeWhile (fun c => !isBlank c)
    let arg := trimBlanks (text.dropWhile (fun c => !isBlank c))
    match assemblePseudo m arg with
    | some is => some is
    | none => (assembleCommand cfg m (operandTexts arg)).map ([·])

/-- The commands of a program, line by line. -/
def assemble (cfg : Config) : List String → Option (List Instr)
  | [] => some []
  | line :: rest =>
    match assembleLine cfg line, assemble cfg rest with
    | some is, some js => some (is ++ js)
    | _, _ => none

end Sys2Proof.Machine
end

