-- ==== Sys2Proof/Safety.lean ====
section
/-! DEFINITION. The terms in which claims speak of safe runs: the parser's invariants (spec/10_state.md R31), runs from reset, and the
obligations of the host (70_reset_and_hazards.md R201 to R211), which the unit does not check. -/

namespace Sys2Proof.Machine

/-! ### Groups of registers (10_state.md R10) -/

/-- Every parser register, working and result, holds its reset value but for `PHASE` (R32). -/
def State.parserCleared (s : State) : Prop :=
  s.err = .none ∧ s.hlen = 0 ∧ s.hcnt = 0 ∧ s.hbuf = Vector.replicate hdrMax 0 ∧ s.prem = 0 ∧ s.tcnt = 0 ∧ s.trailer = 0 ∧
  s.rxCrc = Config.spec.crcInit ∧ s.hasRecv = false ∧ s.hasSeq = false ∧ s.surplus = false ∧ s.payload = [] ∧
  s.hdr = Header.zero

/-- The same parser registers, working and result. -/
def State.sameParser (s t : State) : Prop :=
  s.phase = t.phase ∧ s.err = t.err ∧ s.hlen = t.hlen ∧ s.hcnt = t.hcnt ∧ s.hbuf = t.hbuf ∧ s.prem = t.prem ∧
  s.tcnt = t.tcnt ∧ s.trailer = t.trailer ∧ s.rxCrc = t.rxCrc ∧ s.hasRecv = t.hasRecv ∧ s.hasSeq = t.hasSeq ∧
  s.surplus = t.surplus ∧ s.payload = t.payload ∧ s.hdr = t.hdr

/-- The same registers throughout: all state of R32. -/
def State.sameRegisters (s t : State) : Prop := s.crcAcc = t.crcAcc ∧ s.sameParser t

/-- The `CRC.*` commands. -/
def isCrcCommand : Instr → Bool
  | .crcInit => true
  | .crcUpd _ => true
  | .crcGet => true
  | .fpStart => false
  | .fpByte _ => false
  | .fpEnd => false
  | .pdDec _ _ => false
  | .pdVal _ _ _ => false
  | .rd _ => false

/-- The `FP.*` commands. -/
def isParserCommand : Instr → Bool
  | .crcInit => false
  | .crcUpd _ => false
  | .crcGet => false
  | .fpStart => true
  | .fpByte _ => true
  | .fpEnd => true
  | .pdDec _ _ => false
  | .pdVal _ _ _ => false
  | .rd _ => false

/-! ### The invariants of R31 -/

/-- The phases in which the header has decoded. -/
def Phase.decodedPhase (p : Phase) : Prop := p = .payload ∨ p = .trailer ∨ p = .done

/-- The clauses of R31 on one state, in the rule's order. (Its last bullet speaks of steps, not of a state.) -/
structure StateInvariant (s : State) : Prop where
  /-- `PHASE == ERR` if and only if `ERR != NONE`. -/
  errIff : s.phase = .err ↔ s.err ≠ .none
  /-- `PHASE == IDLE`: every parser register holds its reset value. -/
  idle : s.phase = .idle → s.parserCleared
  /-- `PHASE == PREFIX`. -/
  lenPrefix : s.phase = .lenPrefix → s.hlen = 0 ∧ s.hcnt = 0 ∧ s.prem = 0 ∧ s.tcnt = 0 ∧ s.trailer = 0 ∧
    s.rxCrc = Config.spec.crcInit ∧ s.hasRecv = false ∧ s.hasSeq = false ∧ s.surplus = false ∧ s.payload = []
  /-- `PHASE == HEADER`. -/
  header : s.phase = .header → s.hcnt < s.hlen
  /-- `PHASE` in `PAYLOAD`, `TRAILER`, `DONE`. -/
  decoded : s.phase.decodedPhase →
    s.hcnt = s.hlen ∧ s.hlen.toNat ∈ [52, 56, 68, 72] ∧
    s.hlen.toNat = 52 + 16 * s.hasRecv.toNat + 4 * s.hasSeq.toNat ∧
    s.hasRecv = (s.hdr.msgType == Config.spec.mtBroadcast) ∧ s.hasSeq = (s.hdr.protocol == Config.spec.protoDatagram) ∧
    s.payload.length + s.prem.toNat = s.hdr.length.toNat ∧
    s.rxCrc = crcFold Config.spec Config.spec.crcInit s.payload
  /-- `PHASE == PAYLOAD`. -/
  payload : s.phase = .payload → 1 ≤ s.prem.toNat
  /-- `PHASE == TRAILER`. -/
  trailer : s.phase = .trailer → s.prem = 0 ∧ s.tcnt.toNat ≤ 3
  /-- `PHASE == DONE`. -/
  done : s.phase = .done → s.prem = 0 ∧ s.tcnt = 4 ∧ s.trailer = crc32 Config.spec s.payload ∧ s.err = .none
  /-- `SURPLUS == 1` implies `PHASE == DONE`. -/
  surplus : s.surplus = true → s.phase = .done

/-- The working values a state keeps from `FP.START` until its header completes. -/
def State.frameUntouched (s : State) : Prop :=
  s.prem = 0 ∧ s.tcnt = 0 ∧ s.trailer = 0 ∧ s.rxCrc = Config.spec.crcInit ∧ s.hasRecv = false ∧ s.hasSeq = false ∧
  s.surplus = false ∧ s.payload = [] ∧ s.hdr = Header.zero

/-- The header in `HBUF` is what the flags and result registers hold, and the payload so far is accounted for. -/
def State.frameDecoded (s : State) : Prop :=
  s.hcnt = s.hlen ∧ hdrMin ≤ s.hlen.toNat ∧ s.hlen.toNat ≤ hdrMax ∧
  decodeHeader Config.spec (slice s.hbuf.toList 0 s.hlen.toNat) = .ok ⟨s.hdr, s.hasRecv, s.hasSeq⟩ ∧
  s.payload.length + s.prem.toNat = s.hdr.length.toNat ∧
  s.rxCrc = crcFold Config.spec Config.spec.crcInit s.payload

/-- What the registers hold while the parser stands in a phase: R31 strengthened to what every step keeps. `ERR` keeps what the
failing step left (60_exceptions.md R184). -/
def State.phaseShape (s : State) : Prop :=
  match s.phase with
  | .idle => s.parserCleared
  | .lenPrefix => s.parserCleared
  | .header => s.err = .none ∧ s.hcnt < s.hlen ∧ s.frameUntouched
  | .payload => s.err = .none ∧ s.frameDecoded ∧ 1 ≤ s.prem.toNat ∧ s.tcnt = 0 ∧ s.trailer = 0 ∧ s.surplus = false
  | .trailer => s.err = .none ∧ s.frameDecoded ∧ s.prem = 0 ∧ s.tcnt.toNat ≤ 3 ∧ s.trailer.toNat < 256 ^ s.tcnt.toNat ∧
      s.surplus = false
  | .done => s.err = .none ∧ s.frameDecoded ∧ s.prem = 0 ∧ s.tcnt = 4 ∧ s.trailer = crc32 Config.spec s.payload
  | .err =>
    match s.err with
    | .none => False
    | .decodeError => s.hcnt = s.hlen ∧ s.frameUntouched
    | .checksumMismatch => s.frameDecoded ∧ s.prem = 0 ∧ s.tcnt = 4 ∧ s.trailer ≠ crc32 Config.spec s.payload ∧
        s.surplus = false
    | .truncatedFrame =>
        (s.hlen = 0 ∧ s.hcnt = 0 ∧ s.frameUntouched) ∨
        (s.hcnt < s.hlen ∧ s.frameUntouched) ∨
        (s.frameDecoded ∧ 1 ≤ s.prem.toNat ∧ s.tcnt = 0 ∧ s.trailer = 0 ∧ s.surplus = false) ∨
        (s.frameDecoded ∧ s.prem = 0 ∧ s.tcnt.toNat ≤ 3 ∧ s.trailer.toNat < 256 ^ s.tcnt.toNat ∧ s.surplus = false)

/-- The inductive invariant: the shape of the phase, and an absent optional block reads zero (10_state.md R25). -/
structure ParserInv (s : State) : Prop where
  shape : s.phaseShape
  absentReceiver : s.hasRecv = false → s.hdr.receiver = 0
  absentSequence : s.hasSeq = false → s.hdr.sequence = 0

/-! ### The CRC in the terms of 40_crc.md R100, R105 and R109 -/

/-- Bit `i` of a byte sequence in the order the CRC takes them: bytes in order, each byte least significant bit first (R105 (a)). -/
def streamBit (s : List Byte) (i : Nat) : Bool := (byteAt s (i / 8)).getLsbD (i % 8)

/-- The polynomial of R100: `x^32` implied, bit `i` of `CRC_POLY` standing for `x^i`. -/
noncomputable def generatorPoly (cfg : Config) : Polynomial (ZMod 2) :=
  Polynomial.X ^ 32 + ∑ i ∈ Finset.range 32, if cfg.crcPoly.getLsbD i then Polynomial.X ^ i else 0

/-- A reflected remainder as a polynomial: bit `i` stands for `x^(31-i)` (R43, R100). -/
noncomputable def remainderPoly (acc : Word) : Polynomial (ZMod 2) :=
  ∑ i ∈ Finset.range 32, if acc.getLsbD i then Polynomial.X ^ (31 - i) else 0

/-- A byte sequence as a polynomial: its first bit in the CRC's order stands for the highest power (R43, R105). -/
noncomputable def messagePoly (s : List Byte) : Polynomial (ZMod 2) :=
  ∑ i ∈ Finset.range (8 * s.length), if streamBit s i then Polynomial.X ^ (8 * s.length - 1 - i) else 0

/-- The coefficients of the generator as a pattern of 33 bits in the order the CRC takes them (R100): bit `j` stands for `x^(32-j)`. -/
def generatorBit (cfg : Config) (j : Nat) : Bool := j == 0 || decide (j ≤ 32) && cfg.crcPoly.getLsbD (32 - j)

/-- The bytes a command sequence folds into `CRC_ACC`, in order (R109). -/
def updBytes : List Instr → List Byte
  | [] => []
  | i :: rest =>
    match i with
    | .crcUpd c => c :: updBytes rest
    | .crcInit => updBytes rest
    | .crcGet => updBytes rest
    | .fpStart => updBytes rest
    | .fpByte _ => updBytes rest
    | .fpEnd => updBytes rest
    | .pdDec _ _ => updBytes rest
    | .pdVal _ _ _ => updBytes rest
    | .rd _ => updBytes rest

/-! ### Round trips (41_presence.md R129) -/

/-- What a decoder gives back of a header (R129): every fixed field, and zero for a block that is absent. -/
def asDecoded (cfg : Config) (h : Header) : Header :=
  { h with
    receiver := if isBroadcast cfg h.msgType then h.receiver else 0,
    sequence := if isDatagram cfg h.protocol then h.sequence else 0 }

/-! ### Runs -/

/-- `k` steps from a state. -/
def runSteps : Nat → State → Host.Outcome State Fault Refusal
  | 0, s => .next s
  | k + 1, s => andThen (step s) (runSteps k)

/-- Reachable from reset by some sequence of inputs (R31: "in every state reachable from reset by any command sequence"). -/
def Reachable (t : State) : Prop :=
  ∃ (inputs : List HostInput) (k : Nat), runSteps k { State.reset with port := inputs } = .next t

/-! ### The host's obligations -/

/-- A word a correct host may send (60_exceptions.md R189): it is a command, and an `RD` names a register. -/
def legalWord (w : Word) : Bool :=
  match decode w with
  | .error _ => false
  | .ok i =>
    match i with
    | .crcInit => true
    | .crcUpd _ => true
    | .crcGet => true
    | .fpStart => true
    | .fpByte _ => true
    | .fpEnd => true
    | .pdDec _ _ => true
    | .pdVal _ _ _ => true
    | .rd c => (regOfNumber c).isSome

/-- The payload bytes a host may release to the application (R202): those of a frame that is `DONE`, and no others. -/
def State.releasable (s : State) : Option (List Byte) := if s.phase = .done then some s.payload else none

/-- A frame in progress (R208): a run that stops here has not finished its frame. -/
def State.inProgress (s : State) : Bool :=
  match s.phase with
  | .idle => false
  | .lenPrefix => true
  | .header => true
  | .payload => true
  | .trailer => true
  | .done => false
  | .err => false

/-- Accepted under both readings of the source (R210): `DONE` without surplus. -/
def State.acceptedUnambiguously (s : State) : Bool := s.doneOut && !s.surplus

/-- A command sequence obeys a rule that looks at the state each command meets. -/
def obeys (rule : State → Instr → Bool) : List Instr → State → Bool
  | [], _ => true
  | i :: rest, s =>
    rule s i &&
    match exec i s with
    | .next t => obeys rule rest t
    | .fault _ => true
    | .refused _ => true

/-- One `FP.START` per frame (R204): no byte is fed in `DONE`. -/
def startBeforeNextFrame (s : State) (i : Instr) : Bool :=
  match i with
  | .fpByte _ => s.phase != .done
  | .crcInit => true
  | .crcUpd _ => true
  | .crcGet => true
  | .fpStart => true
  | .fpEnd => true
  | .pdDec _ _ => true
  | .pdVal _ _ _ => true
  | .rd _ => true

/-- A stream is finished after a frame error (R205): no byte of it is fed, and no frame opened, in `ERR`. -/
def stopAfterError (s : State) (i : Instr) : Bool :=
  match i with
  | .fpByte _ => s.phase != .err
  | .fpStart => s.phase != .err
  | .crcInit => true
  | .crcUpd _ => true
  | .crcGet => true
  | .fpEnd => true
  | .pdDec _ _ => true
  | .pdVal _ _ _ => true
  | .rd _ => true

/-- One reader at a time (R206): the commands carry the number of the thread that issues them; a frame belongs to the thread that
opened it, and no other thread's `FP.BYTE` or `FP.END` comes before the next `FP.START`. -/
def oneReader : Option Nat → List (Nat × Instr) → Bool
  | _, [] => true
  | owner, (k, i) :: rest =>
    match i with
    | .fpStart => oneReader (some k) rest
    | .fpByte _ => decide (owner = some k) && oneReader owner rest
    | .fpEnd => decide (owner = some k) && oneReader owner rest
    | .crcInit => oneReader owner rest
    | .crcUpd _ => oneReader owner rest
    | .crcGet => oneReader owner rest
    | .pdDec _ _ => oneReader owner rest
    | .pdVal _ _ _ => oneReader owner rest
    | .rd _ => oneReader owner rest

/-- One writer at a time (R206): a checksum belongs to the thread that began it with `CRC.INIT`. -/
def oneWriter : Option Nat → List (Nat × Instr) → Bool
  | _, [] => true
  | owner, (k, i) :: rest =>
    match i with
    | .crcInit => oneWriter (some k) rest
    | .crcUpd _ => decide (owner = some k) && oneWriter owner rest
    | .crcGet => decide (owner = some k) && oneWriter owner rest
    | .fpStart => oneWriter owner rest
    | .fpByte _ => oneWriter owner rest
    | .fpEnd => oneWriter owner rest
    | .pdDec _ _ => oneWriter owner rest
    | .pdVal _ _ _ => oneWriter owner rest
    | .rd _ => oneWriter owner rest

end Sys2Proof.Machine
end

