-- ==== Sys2Proof/Certificates/Slice0/Obligations.lean ====
section
/-! DEFINITION. The statements for the provers. Each docstring names the rule of spec/ it formalises; where a statement rests on the
spec's own inference ("derived") or on a choice of the model, the docstring says so. -/

open Sys2Proof Sys2Proof.Machine

/-! ### Command words -/

/-- 30_encoding.md R80 to R82: every command is well formed, and decoding its word gives it back with every operand. -/
def Obligations.DecodeOfEncodeIsTheCommand : Prop := ∀ i : Instr, i.wf = true ∧ decode (encode i) = .ok i

/-- 30_encoding.md R80 to R83: a word that decodes is the word of the command it decodes to, so no bit of a command word is dropped. -/
def Obligations.EncodeOfDecodeIsTheWord : Prop := ∀ (w : Word) (i : Instr), decode w = .ok i → encode i = w

/-- 30_encoding.md R82: the nine rows; a word is the command of a row exactly when `(w and mask) == match`; the rows are disjoint;
the operands stand in the fields the table names. -/
def Obligations.WordIsCommandOfExactlyTheCoveringRow : Prop :=
  opcodeTable =
    [⟨"CRC.INIT", .z, 0x01000000, 0xFFFFFFFF⟩, ⟨"CRC.UPD", .b, 0x02000000, 0xFFFFFF00⟩,
     ⟨"CRC.GET", .z, 0x03000000, 0xFFFFFFFF⟩, ⟨"FP.START", .z, 0x10000000, 0xFFFFFFFF⟩,
     ⟨"FP.BYTE", .b, 0x11000000, 0xFFFFFF00⟩, ⟨"FP.END", .z, 0x12000000, 0xFFFFFFFF⟩,
     ⟨"PD.DEC", .p2, 0x20000000, 0xFF0000FF⟩, ⟨"PD.VAL", .p3, 0x21000000, 0xFF000000⟩,
     ⟨"RD", .b, 0x30000000, 0xFFFFFF00⟩] ∧
  (∀ (w : Word), ∀ r ∈ opcodeTable, w &&& r.maskBits = r.matchBits ↔ ∃ i, decode w = .ok i ∧ i.row = r) ∧
  (∀ (w : Word), ∀ r₁ ∈ opcodeTable, ∀ r₂ ∈ opcodeTable,
    w &&& r₁.maskBits = r₁.matchBits → w &&& r₂.maskBits = r₂.matchBits → r₁ = r₂) ∧
  (∀ a b c : Byte,
    decode (0x020000#24 ++ c) = .ok (.crcUpd c) ∧ decode (0x110000#24 ++ c) = .ok (.fpByte c) ∧
    decode (0x300000#24 ++ c) = .ok (.rd c) ∧ decode (0x20#8 ++ a ++ b ++ 0x00#8) = .ok (.pdDec a b) ∧
    decode (0x21#8 ++ a ++ b ++ c) = .ok (.pdVal a b c))

/-- 30_encoding.md R81, R83: an unlisted opcode, and a non-zero field that the format does not use, are rejected, each by its name; format
P3 has no unused field. An `RD` of any number is decoded as `RD`, and one of no register is answered `(ILLEGAL, 0)`, as an illegal word is
(`IllegalWordLeavesNoTrace`). -/
def Obligations.IllegalWordsAreRejectedByName : Prop :=
  (∀ w : Word, w.extractLsb' 24 8 ∉ [0x01#8, 0x02#8, 0x03#8, 0x10#8, 0x11#8, 0x12#8, 0x20#8, 0x21#8, 0x30#8] →
    decode w = .error (.unknownOpcode (w.extractLsb' 24 8))) ∧
  (∀ w : Word, w.extractLsb' 24 8 ∈ [0x01#8, 0x03#8, 0x10#8, 0x12#8] → w.extractLsb' 0 24 ≠ 0 →
    decode w = .error (.unusedFieldNotZero (w.extractLsb' 24 8))) ∧
  (∀ w : Word, w.extractLsb' 24 8 ∈ [0x02#8, 0x11#8, 0x30#8] → w.extractLsb' 8 16 ≠ 0 →
    decode w = .error (.unusedFieldNotZero (w.extractLsb' 24 8))) ∧
  (∀ w : Word, w.extractLsb' 24 8 = 0x20#8 → w.extractLsb' 0 8 ≠ 0 → decode w = .error (.unusedFieldNotZero 0x20)) ∧
  (∀ w : Word, w.extractLsb' 24 8 = 0x21#8 → ∃ i, decode w = .ok i) ∧
  (∀ (s : State) (c : Byte), decode (0x300000#24 ++ c) = .ok (.rd c) ∧
    (0x08 ≤ c.toNat ∧ c.toNat ≤ 0x0F ∨ 0x1A ≤ c.toNat →
      exec (.rd c) s = .next { s with resp := some ⟨.illegal, 0⟩, pay := none }))

/-- 30_encoding.md R82, R85 (a sanity statement): words written out from the table and the examples decode to their commands. -/
def Obligations.SampleWordsDecode : Prop :=
  decode 0x01000000 = .ok .crcInit ∧ decode 0x02000031 = .ok (.crcUpd 0x31) ∧ decode 0x03000000 = .ok .crcGet ∧
  decode 0x10000000 = .ok .fpStart ∧ decode 0x11000034 = .ok (.fpByte 52) ∧ decode 0x12000000 = .ok .fpEnd ∧
  decode 0x20020100 = .ok (.pdDec 2 1) ∧ decode 0x21020148 = .ok (.pdVal 2 1 72) ∧ decode 0x30000014 = .ok (.rd 0x14)

/-! ### The step -/

/-- 20_memory.md R47, 30_encoding.md R82: with a command word at the port, a step is `exec` of the command it decodes to, at the state
without that word. (The port is the model's own field, log entry 1.) -/
def Obligations.StepRunsTheDecodedCommand : Prop :=
  ∀ (s : State) (w : Word) (rest : List HostInput) (i : Instr),
    s.port = .command w :: rest → decode w = .ok i → step s = exec i { s with port := rest }

/-- 60_exceptions.md R189: an illegal word changes no register, has no `pay` output and answers `(ILLEGAL, 0)`; and it is not latched:
no command's step depends on what the last step answered. -/
def Obligations.IllegalWordLeavesNoTrace : Prop :=
  (∀ (s : State) (w : Word) (rest : List HostInput), s.port = .command w :: rest → (∀ i, decode w ≠ .ok i) →
    step s = .next { s with port := rest, resp := some ⟨.illegal, 0⟩, pay := none }) ∧
  (∀ (i : Instr) (s : State) (r : Option Response) (p : Option Byte), exec i { s with resp := r, pay := p } = exec i s)

/-- 70_reset_and_hazards.md R200 with the values of 10_state.md R32: what reset leaves, in any state, a frame in progress or not; and
with neither a command nor a reset at the port a step changes nothing (R208). The MODEL's choices in it: that the inputs still pending
stay pending after a reset (log entry 3), that a waiting step keeps the last response and `pay` (log entry 2), and that no input is
pending in `State.reset` (log entry 1). -/
def Obligations.ResetLeavesTheStatedValues : Prop :=
  (∀ (s : State) (rest : List HostInput), s.port = .reset :: rest →
    step s = .next
      { crcAcc := 0xFFFFFFFF, phase := .idle, err := .none, hlen := 0, hcnt := 0, hbuf := Vector.replicate 72 0, prem := 0,
        tcnt := 0, trailer := 0, rxCrc := 0xFFFFFFFF, hasRecv := false, hasSeq := false, surplus := false, payload := [],
        hdr := ⟨0, 0, 0, 0, 0, 0, 0, 0, 0, 0⟩, resp := none, pay := none, port := rest }) ∧
  (∀ s : State, s.port = [] → step s = .next s) ∧
  State.reset =
    { crcAcc := 0xFFFFFFFF, phase := .idle, err := .none, hlen := 0, hcnt := 0, hbuf := Vector.replicate 72 0, prem := 0,
      tcnt := 0, trailer := 0, rxCrc := 0xFFFFFFFF, hasRecv := false, hasSeq := false, surplus := false, payload := [],
      hdr := ⟨0, 0, 0, 0, 0, 0, 0, 0, 0, 0⟩, resp := none, pay := none, port := [] } ∧
  State.reset.status = 0 ∧ State.reset.doneOut = false ∧ State.reset.errOut = false

/-- 30_encoding.md R84: every command, in every state, completes with a response, and takes nothing more from the port. -/
def Obligations.EveryCommandCompletesWithAResponse : Prop :=
  ∀ (i : Instr) (s : State), ∃ (t : State) (r : Response), exec i s = .next t ∧ t.resp = some r ∧ t.port = s.port

/-- 60_exceptions.md R189, 43_system.md R170: the answer to a word is `ILLEGAL` exactly when the word is no command or an `RD` of a
number that names no register. -/
def Obligations.IllegalIsAnsweredExactlyToIllegalWords : Prop :=
  ∀ (s : State) (w : Word) (rest : List HostInput), s.port = .command w :: rest →
    ∃ (t : State) (r : Response), step s = .next t ∧ t.resp = some r ∧ (r.code = .illegal ↔ legalWord w = false)

/-! ### The CRC engine -/

/-- 40_crc.md R106. -/
def Obligations.CrcInitStartsANewChecksum : Prop :=
  encode .crcInit = 0x01000000 ∧ decode 0x01000000 = .ok .crcInit ∧
  ∀ s : State,
    exec .crcInit s = .next { s with crcAcc := 0xFFFFFFFF, resp := some ⟨.ok, 0⟩, pay := none } ∧
    runInstrs [.crcInit, .crcInit] s = runInstrs [.crcInit] s

/-- 40_crc.md R107, its corner cases included: a zero byte changes `CRC_ACC` unless it is 0, and the first checksum after reset needs
no `CRC.INIT`. -/
def Obligations.CrcUpdFoldsTheByte : Prop :=
  (∀ (s : State) (c : Byte), encode (.crcUpd c) = 0x020000#24 ++ c ∧
    exec (.crcUpd c) s = .next { s with crcAcc := crcStep Config.spec s.crcAcc c, resp := some ⟨.ok, 0⟩, pay := none }) ∧
  (∀ acc : Word, crcStep Config.spec acc 0 = acc ↔ acc = 0) ∧
  (∀ bs : List Byte, ∃ t, runInstrs (bs.map .crcUpd ++ [.crcGet]) State.reset = .next t ∧
    t.resp = some ⟨.ok, (crc32 Config.spec bs).setWidth 128⟩)

/-- 40_crc.md R108: the answer is the code; nothing is written; directly after `CRC.INIT` or reset the answer is 0; a second
`CRC.GET` answers the same, and one after more `CRC.UPD` the code of the longer sequence; and the trailer a frame builder appends is
the big-endian form of the answer. -/
def Obligations.CrcGetAnswersTheCode : Prop :=
  encode .crcGet = 0x03000000 ∧
  (∀ s : State,
    exec .crcGet s = .next { s with resp := some ⟨.ok, (s.crcAcc ^^^ 0xFFFFFFFF).setWidth 128⟩, pay := none } ∧
    responses [.crcInit, .crcGet] s = [⟨.ok, 0⟩, ⟨.ok, 0⟩] ∧
    runInstrs [.crcGet, .crcGet] s = runInstrs [.crcGet] s) ∧
  (∀ (s : State) (bs more : List Byte), ∃ t u : State,
    runInstrs (crcBuf bs) s = .next t ∧ t.resp = some ⟨.ok, (crc32 Config.spec bs).setWidth 128⟩ ∧
    runInstrs (more.map .crcUpd ++ [.crcGet]) t = .next u ∧ u.resp = some ⟨.ok, (crc32 Config.spec (bs ++ more)).setWidth 128⟩) ∧
  (∀ (s : State) (hb payload : List Byte), ∃ (t : State) (data : Qword),
    runInstrs (crcBuf payload) s = .next t ∧ t.resp = some ⟨.ok, data⟩ ∧
    layFrame Config.spec hb payload = BitVec.ofNat 8 hb.length :: (hb ++ payload ++ beBytes 4 data.toNat)) ∧
  responses [.crcGet] State.reset = [⟨.ok, 0⟩]

/-- 40_crc.md R109 (the spec's inference): between `CRC.INIT` and `CRC.GET`, whatever `PD.*`, `FP.*`, `RD` and `CRC.GET` stand among the
`CRC.UPD`, the answer is `crc32` of the bytes folded. -/
def Obligations.ChecksumSequenceSurvivesInterleaving : Prop :=
  ∀ (prog : List Instr) (s : State), (∀ i ∈ prog, i ≠ .crcInit) →
    ∃ t, runInstrs (.crcInit :: (prog ++ [.crcGet])) s = .next t ∧
      t.resp = some ⟨.ok, (crc32 Config.spec (updBytes prog)).setWidth 128⟩

/-- 40_crc.md R103 (the spec's inference): the table form equals the bit-serial form, for every remainder and byte. -/
def Obligations.TableFormEqualsBitSerialForm : Prop :=
  ∀ (acc : Word) (b : Byte), crcStep Config.spec acc b = crcStepByTable Config.spec acc b

/-- 40_crc.md R100, R101: the remainder is the one of division by the IEEE polynomial. Folding a byte sequence from a remainder leaves
a remainder congruent, modulo the generator, to the old one times `x^(8n)` plus the message times `x^32`. -/
def Obligations.FoldIsThePolynomialRemainder : Prop :=
  ∀ (acc : Word) (s : List Byte),
    generatorPoly Config.spec ∣
      remainderPoly (crcFold Config.spec acc s) -
        (Polynomial.X ^ (8 * s.length) * remainderPoly acc + Polynomial.X ^ 32 * messagePoly s)

/-- 40_crc.md R105 (a) (the spec's inference): a change confined to 32 consecutive bits, in the order the CRC takes them, changes the
code. It holds of every choice of parameters that takes the bits of a byte reflected and whose polynomial has the constant term; where such a
choice has `CRC_REFOUT` false, the code is the model's presumption (log entry 4). -/
def Obligations.ShortBurstChangesTheCode : Prop :=
  ∀ (cfg : Config) (s s' : List Byte) (k : Nat), cfg.crcRefIn = true → cfg.crcPolyR.getLsbD 31 = true →
    s.length = s'.length → s ≠ s' → (∀ i, i < k ∨ k + 32 ≤ i → streamBit s i = streamBit s' i) →
    crc32 cfg s ≠ crc32 cfg s'

/-- 40_crc.md R105 (b) with R100 (the spec's inference): a change of more than 32 bits can cancel, and this one does: exclusive-or of the
33-bit pattern of the generator into any sequence that has room for it, at any bit offset `k` in the order the CRC takes the bits, gives
another sequence of the same length with the same code. -/
def Obligations.GeneratorPatternKeepsTheCode : Prop :=
  ∀ (s : List Byte) (k : Nat), k + 33 ≤ 8 * s.length →
    ∃ s' : List Byte, s'.length = s.length ∧ s' ≠ s ∧
      (∀ i, streamBit s' i = (streamBit s i ^^ (decide (k ≤ i) && generatorBit Config.spec (i - k)))) ∧
      crc32 Config.spec s' = crc32 Config.spec s

/-- The first clause of 40_crc.md R105 (c), as the spec words it: "`crc32` of a sequence of `n` zero bytes is not zero for `n >= 1`".
EXPECTED TO FAIL: the zero byte's step permutes the remainders, so some `n >= 1` leads back to `CRC_INIT` (log entry 9). -/
def Obligations.CodeOfZeroBytesIsNeverZero : Prop :=
  ∀ n : Nat, 1 ≤ n → crc32 Config.spec (List.replicate n 0) ≠ 0

/-! ### The presence decoder and the header decoder -/

/-- 41_presence.md R123 (the spec's inference), for every choice of parameters: the four rows. -/
def Obligations.PresenceIsTheFourRowTable : Prop :=
  ∀ (cfg : Config) (mt pr : Byte),
    (mt ≠ cfg.mtBroadcast → pr ≠ cfg.protoDatagram → presence cfg mt pr = ⟨false, false, 52⟩) ∧
    (mt ≠ cfg.mtBroadcast → pr = cfg.protoDatagram → presence cfg mt pr = ⟨false, true, 56⟩) ∧
    (mt = cfg.mtBroadcast → pr ≠ cfg.protoDatagram → presence cfg mt pr = ⟨true, false, 68⟩) ∧
    (mt = cfg.mtBroadcast → pr = cfg.protoDatagram → presence cfg mt pr = ⟨true, true, 72⟩)

/-- 41_presence.md R125: `n` in bits 7:0, `r` in bit 8, `s` in bit 9, other bits 0; no register is written. -/
def Obligations.PdDecAnswersPresence : Prop :=
  ∀ (s : State) (a b : Byte),
    encode (.pdDec a b) = 0x20#8 ++ a ++ b ++ 0x00#8 ∧
    ∃ data : Qword,
      exec (.pdDec a b) s = .next { s with resp := some ⟨.ok, data⟩, pay := none } ∧
      (data.extractLsb' 0 8).toNat = 52 + (if a = 2 then 16 else 0) + (if b = 1 then 4 else 0) ∧
      data.getLsbD 8 = decide (a = 2) ∧ data.getLsbD 9 = decide (b = 1) ∧ data.extractLsb' 10 118 = 0

/-- 41_presence.md R126: as `PD.DEC`, and bit 10 is 1 exactly when `decodeHeader` would not fail on a header of that length with those
control bytes. -/
def Obligations.PdValAnswersValidity : Prop :=
  ∀ (s : State) (a b c : Byte),
    encode (.pdVal a b c) = 0x21#8 ++ a ++ b ++ c ∧
    ∃ data : Qword,
      exec (.pdVal a b c) s = .next { s with resp := some ⟨.ok, data⟩, pay := none } ∧
      (data.extractLsb' 0 8).toNat = 52 + (if a = 2 then 16 else 0) + (if b = 1 then 4 else 0) ∧
      data.getLsbD 8 = decide (a = 2) ∧ data.getLsbD 9 = decide (b = 1) ∧ data.extractLsb' 11 117 = 0 ∧
      (data.getLsbD 10 = true ↔
        52 ≤ c.toNat ∧ c.toNat ≤ 72 ∧ c.toNat = 52 + (if a = 2 then 16 else 0) + (if b = 1 then 4 else 0)) ∧
      (∀ hb : List Byte, hb.length = c.toNat → byteAt hb 49 = a → byteAt hb 51 = b →
        (data.getLsbD 10 = true ↔ ∃ d, decodeHeader Config.spec hb = .ok d))

/-- 41_presence.md R124: the two failures and no other, and every field where it stands on the wire. -/
def Obligations.DecodeHeaderFollowsTheWireFormat : Prop :=
  ∀ hb : List Byte,
    ((hb.length < 52 ∨ 72 < hb.length ∨
        hb.length ≠ 52 + (if byteAt hb 49 = 2 then 16 else 0) + (if byteAt hb 51 = 1 then 4 else 0)) →
      decodeHeader Config.spec hb = .error .decodeError) ∧
    (52 ≤ hb.length → hb.length ≤ 72 →
      hb.length = 52 + (if byteAt hb 49 = 2 then 16 else 0) + (if byteAt hb 51 = 1 then 4 else 0) →
      ∃ h : Header,
        decodeHeader Config.spec hb = .ok ⟨h, decide (byteAt hb 49 = 2), decide (byteAt hb 51 = 1)⟩ ∧
        beBytes 16 h.id.toNat = slice hb 0 16 ∧ beBytes 16 h.sender.toNat = slice hb 16 32 ∧
        beBytes 8 h.timestamp.toNat = slice hb 32 40 ∧ beBytes 8 h.length.toNat = slice hb 40 48 ∧
        h.flags = byteAt hb 48 ∧ h.msgType = byteAt hb 49 ∧ h.router = byteAt hb 50 ∧ h.protocol = byteAt hb 51 ∧
        (byteAt hb 49 = 2 → beBytes 16 h.receiver.toNat = slice hb 52 68) ∧ (byteAt hb 49 ≠ 2 → h.receiver = 0) ∧
        (byteAt hb 49 = 2 → byteAt hb 51 = 1 → beBytes 4 h.sequence.toNat = slice hb 68 72) ∧
        (byteAt hb 49 ≠ 2 → byteAt hb 51 = 1 → beBytes 4 h.sequence.toNat = slice hb 52 56) ∧
        (byteAt hb 51 ≠ 1 → h.sequence = 0))

/-- 41_presence.md R128 (the spec's inference), for every choice of parameters: only four lengths can decode. -/
def Obligations.OnlyFourHeaderLengthsDecode : Prop :=
  ∀ (cfg : Config) (hb : List Byte) (d : Decoded), decodeHeader cfg hb = .ok d → hb.length ∈ [52, 56, 68, 72]

/-- 41_presence.md R127, 30_encoding.md R75 (the spec's inference): the legacy encoder's header of a broadcast with a zero receiver is 52
or 56 bytes and is refused, and the unit refuses its frame with `DECODE_ERROR` and passes no byte out; every other header is encoded
as the reference encoder does. -/
def Obligations.LegacyBroadcastWithZeroReceiverIsRefused : Prop :=
  (∀ (h : Header) (now : Dword) (hb payload : List Byte) (s : State),
    h.msgType = Config.spec.mtBroadcast → h.receiver = 0 → legacyEncodeHeader Config.spec (some h) now = .ok hb →
    (hb.length = 52 ∨ hb.length = 56) ∧ decodeHeader Config.spec hb = .error .decodeError ∧
    parseFrame Config.spec (layFrame Config.spec hb payload) = .error .decodeError ∧
    payBytes (fpParse (layFrame Config.spec hb payload)) s = [] ∧
    ∃ t, runInstrs (fpParse (layFrame Config.spec hb payload)) s = .next t ∧ t.phase = .err ∧ t.err = .decodeError) ∧
  (∀ (h : Header) (now : Dword), ¬(h.msgType = Config.spec.mtBroadcast ∧ h.receiver = 0) →
    legacyEncodeHeader Config.spec (some h) now = encodeHeader Config.spec (some h) now)

/-- 41_presence.md R129 (the spec's inference), for every well-formed choice of parameters: decoding an encoded header gives every fixed
field back, and an optional block when it is present. -/
def Obligations.DecodeHeaderOfEncodeHeader : Prop :=
  ∀ (cfg : Config) (h : Header) (now : Dword), cfg.wf = true →
    ∃ hb, encodeHeader cfg (some h) now = .ok hb ∧ hb.length = (presence cfg h.msgType h.protocol).len ∧
      decodeHeader cfg hb =
        .ok ⟨asDecoded cfg (fillTimestamp now h), isBroadcast cfg h.msgType, isDatagram cfg h.protocol⟩

/-- The source's property 1 (95_test_vectors.md S3; 30_encoding.md R74), for every well-formed choice of parameters: parsing a built
frame gives the header, with `Length` the payload's byte count, and the payload. -/
def Obligations.ParseFrameOfBuildFrame : Prop :=
  ∀ (cfg : Config) (tr : Transport) (maxFrame : Nat) (h : Header) (payload : List Byte) (now : Dword) (frame : List Byte),
    cfg.wf = true → payload.length < 2 ^ 64 → buildFrame cfg tr maxFrame (some h) payload now = .ok frame →
    frame.length = 1 + (presence cfg h.msgType h.protocol).len + payload.length + 4 ∧
    parseFrame cfg frame =
      .ok ⟨asDecoded cfg (fillTimestamp now { h with length := BitVec.ofNat 64 payload.length }),
        isBroadcast cfg h.msgType, isDatagram cfg h.protocol, payload, false⟩

/-- 30_encoding.md R76: every frame of a datagram transport carries a `Sequence` block with the transport's counter, so its prefix is 56
or 72, 72 exactly for a broadcast. -/
def Obligations.DatagramFrameCarriesItsSequence : Prop :=
  ∀ (h : Header) (sender : Qword) (counter : Word) (maxFrame : Nat) (payload : List Byte) (now : Dword) (frame : List Byte),
    buildFrame Config.spec .datagram maxFrame (some (datagramStamp Config.spec sender counter h).1) payload now = .ok frame →
    byteAt frame 0 = (if h.msgType = 2 then 72 else 56) ∧
    beNat (memRead frame (byteAt frame 0 - 3).toNat 4) = counter.toNat

/-! ### The frame parser, command by command -/

/-- 42_frame_parser.md R142: what `FP.START` writes, in every phase; two in a row equal one. -/
def Obligations.FpStartOpensANewFrame : Prop :=
  encode .fpStart = 0x10000000 ∧
  ∀ s : State,
    exec .fpStart s =
      .next
        { crcAcc := s.crcAcc, phase := .lenPrefix, err := .none, hlen := 0, hcnt := 0, hbuf := Vector.replicate 72 0,
          prem := 0, tcnt := 0, trailer := 0, rxCrc := 0xFFFFFFFF, hasRecv := false, hasSeq := false, surplus := false,
          payload := [], hdr := ⟨0, 0, 0, 0, 0, 0, 0, 0, 0, 0⟩, resp := some ⟨.ok, 0x001⟩, pay := none, port := s.port } ∧
    runInstrs [.fpStart, .fpStart] s = runInstrs [.fpStart] s

/-- 42_frame_parser.md R144: in `PREFIX` every byte is taken as the header length; 0 completes, and fails, the header at once. -/
def Obligations.FpByteInPrefixTakesTheLength : Prop :=
  ∀ (s : State) (c : Byte), s.phase = .lenPrefix →
    (c ≠ 0 →
      let t := { s with hlen := c, hcnt := 0#8, phase := .header }
      exec (.fpByte c) s = .next { t with resp := some ⟨.ok, t.status.setWidth 128⟩, pay := none }) ∧
    (c = 0 →
      let t := { s with hlen := 0, hcnt := 0, phase := .err, err := .decodeError }
      exec (.fpByte c) s = .next { t with resp := some ⟨.ok, t.status.setWidth 128⟩, pay := none })

/-- 42_frame_parser.md R145, R146: in `HEADER` the byte is stored where its offset is below 72, and counted; and when it is the last
one, the header completes in the same step, decoded or failed. -/
def Obligations.FpByteInHeaderStoresAndCompletes : Prop :=
  ∀ (s : State) (c : Byte), s.phase = .header →
    ∃ buf : Vector Byte 72,
      (∀ (i : Nat) (h : i < 72), buf[i] = if i = s.hcnt.toNat then c else s.hbuf[i]) ∧
      (s.hcnt + 1#8 ≠ s.hlen →
        let t := { s with hbuf := buf, hcnt := s.hcnt + 1#8 }
        exec (.fpByte c) s = .next { t with resp := some ⟨.ok, t.status.setWidth 128⟩, pay := none }) ∧
      (∀ d, s.hcnt + 1#8 = s.hlen → 52 ≤ s.hlen.toNat → s.hlen.toNat ≤ 72 →
        decodeHeader Config.spec (buf.toList.take s.hlen.toNat) = .ok d →
        let t := { s with hbuf := buf, hcnt := s.hcnt + 1#8, hdr := d.hdr, hasRecv := d.recv, hasSeq := d.seq,
                          prem := d.hdr.length, phase := if d.hdr.length = 0#64 then .trailer else .payload }
        exec (.fpByte c) s = .next { t with resp := some ⟨.ok, t.status.setWidth 128⟩, pay := none }) ∧
      (s.hcnt + 1#8 = s.hlen →
        (s.hlen.toNat < 52 ∨ 72 < s.hlen.toNat ∨
          decodeHeader Config.spec (buf.toList.take s.hlen.toNat) = .error .decodeError) →
        let t := { s with hbuf := buf, hcnt := s.hcnt + 1#8, phase := .err, err := .decodeError }
        exec (.fpByte c) s = .next { t with resp := some ⟨.ok, t.status.setWidth 128⟩, pay := none })

/-- 42_frame_parser.md R147: in `PAYLOAD` the byte is folded, passed out and counted, and the last one ends the payload. -/
def Obligations.FpByteInPayloadFoldsAndPassesOut : Prop :=
  ∀ (s : State) (c : Byte), s.phase = .payload →
    let t := { s with rxCrc := crcStep Config.spec s.rxCrc c, payload := s.payload ++ [c], prem := s.prem - 1#64,
                      phase := if s.prem = 1#64 then .trailer else .payload }
    exec (.fpByte c) s = .next { t with resp := some ⟨.ok, t.status.setWidth 128⟩, pay := some c }

/-- 42_frame_parser.md R148: in `TRAILER` the byte is shifted in and counted; the fourth decides the frame. -/
def Obligations.FpByteInTrailerDecidesAtTheFourth : Prop :=
  ∀ (s : State) (c : Byte), s.phase = .trailer →
    let u := { s with trailer := (s.trailer <<< 8) ||| c.setWidth 32, tcnt := s.tcnt + 1#3 }
    (s.tcnt ≠ 3#3 → exec (.fpByte c) s = .next { u with resp := some ⟨.ok, u.status.setWidth 128⟩, pay := none }) ∧
    (s.tcnt = 3#3 → u.trailer = s.rxCrc ^^^ 0xFFFFFFFF →
      let t := { u with phase := .done }
      exec (.fpByte c) s = .next { t with resp := some ⟨.ok, t.status.setWidth 128⟩, pay := none }) ∧
    (s.tcnt = 3#3 → u.trailer ≠ s.rxCrc ^^^ 0xFFFFFFFF →
      let t := { u with phase := .err, err := .checksumMismatch }
      exec (.fpByte c) s = .next { t with resp := some ⟨.ok, t.status.setWidth 128⟩, pay := none })

/-- 10_state.md R19: four trailer bytes are assembled big-endian, and while fewer have come the upper bytes are zero. -/
def Obligations.TrailerIsAssembledBigEndian : Prop :=
  ∀ (s : State) (a b c d : Byte), s.phase = .trailer → s.tcnt = 0 → s.trailer = 0 →
    ∃ t₁ t₂ t₃ t₄ : State,
      runInstrs (fpFeed [a]) s = .next t₁ ∧ t₁.trailer = 0#24 ++ a ∧ t₁.tcnt = 1 ∧
      runInstrs (fpFeed [a, b]) s = .next t₂ ∧ t₂.trailer = 0#16 ++ a ++ b ∧ t₂.tcnt = 2 ∧
      runInstrs (fpFeed [a, b, c]) s = .next t₃ ∧ t₃.trailer = 0#8 ++ a ++ b ++ c ∧ t₃.tcnt = 3#3 ∧
      runInstrs (fpFeed [a, b, c, d]) s = .next t₄ ∧ t₄.trailer = a ++ b ++ c ++ d ∧ t₄.tcnt = 4

/-- 42_frame_parser.md R149: in `DONE` a byte sets `SURPLUS` and changes nothing else. -/
def Obligations.FpByteInDoneSetsSurplus : Prop :=
  ∀ (s : State) (c : Byte), s.phase = .done →
    let t := { s with surplus := true }
    exec (.fpByte c) s = .next { t with resp := some ⟨.ok, t.status.setWidth 128⟩, pay := none }

/-- 42_frame_parser.md R152: in `IDLE` and `ERR` a byte is ignored. -/
def Obligations.FpByteInIdleOrErrIsIgnored : Prop :=
  ∀ (s : State) (c : Byte), s.phase = .idle ∨ s.phase = .err →
    exec (.fpByte c) s = .next { s with resp := some ⟨.ignored, s.status.setWidth 128⟩, pay := none }

/-- 42_frame_parser.md R150: `FP.END` truncates a frame in progress, changes nothing in `DONE`, is ignored in `IDLE` and `ERR`; an
empty datagram fails. -/
def Obligations.FpEndTruncatesAFrameInProgress : Prop :=
  encode .fpEnd = 0x12000000 ∧
  (∀ s : State, s.phase = .lenPrefix ∨ s.phase = .header ∨ s.phase = .payload ∨ s.phase = .trailer →
    let t := { s with phase := .err, err := .truncatedFrame }
    exec .fpEnd s = .next { t with resp := some ⟨.ok, t.status.setWidth 128⟩, pay := none }) ∧
  (∀ s : State, s.phase = .done →
    exec .fpEnd s = .next { s with resp := some ⟨.ok, s.status.setWidth 128⟩, pay := none }) ∧
  (∀ s : State, s.phase = .idle ∨ s.phase = .err →
    exec .fpEnd s = .next { s with resp := some ⟨.ignored, s.status.setWidth 128⟩, pay := none }) ∧
  (∀ s : State, ∃ t, runInstrs [.fpStart, .fpEnd] s = .next t ∧ t.phase = .err ∧ t.err = .truncatedFrame)

/-- 42_frame_parser.md R141, R143: every `FP.*` command answers the `STATUS` of the state it leaves, `IGNORED` exactly where the phase has
no use for it. -/
def Obligations.FpCommandsAnswerTheStatusTheyLeave : Prop :=
  ∀ (i : Instr) (s : State), isParserCommand i = true →
    ∃ t, exec i s = .next t ∧
      t.resp = some ⟨if i ≠ .fpStart ∧ (s.phase = .idle ∨ s.phase = .err) then .ignored else .ok, t.status.setWidth 128⟩

/-! ### The parser as a whole -/

/-- 42_frame_parser.md R153 (the spec's inference): the table of phase changes, every row. -/
def Obligations.PhaseChangesAreTheTable : Prop :=
  ∀ s : State,
    (∃ t, exec .fpStart s = .next t ∧ t.phase = .lenPrefix) ∧
    (∀ c, s.phase = .lenPrefix → c ≠ 0 → ∃ t, exec (.fpByte c) s = .next t ∧ t.phase = .header) ∧
    (s.phase = .lenPrefix → ∃ t, exec (.fpByte 0) s = .next t ∧ t.phase = .err ∧ t.err = .decodeError) ∧
    (∀ c, s.phase = .header → s.hcnt.toNat + 1 < s.hlen.toNat → ∃ t, exec (.fpByte c) s = .next t ∧ t.phase = .header) ∧
    (∀ c, s.phase = .header → s.hcnt.toNat + 1 = s.hlen.toNat → ∃ t, exec (.fpByte c) s = .next t ∧
      ((t.phase = .payload ∧ 1 ≤ t.hdr.length.toNat ∧
          decodeHeader Config.spec (t.hbuf.toList.take t.hlen.toNat) = .ok ⟨t.hdr, t.hasRecv, t.hasSeq⟩) ∨
        (t.phase = .trailer ∧ t.hdr.length = 0#64 ∧
          decodeHeader Config.spec (t.hbuf.toList.take t.hlen.toNat) = .ok ⟨t.hdr, t.hasRecv, t.hasSeq⟩) ∨
        (t.phase = .err ∧ t.err = .decodeError ∧
          (72 < t.hlen.toNat ∨ decodeHeader Config.spec (t.hbuf.toList.take t.hlen.toNat) = .error .decodeError)))) ∧
    (∀ c, s.phase = .payload → 2 ≤ s.prem.toNat → ∃ t, exec (.fpByte c) s = .next t ∧ t.phase = .payload) ∧
    (∀ c, s.phase = .payload → s.prem = 1#64 → ∃ t, exec (.fpByte c) s = .next t ∧ t.phase = .trailer) ∧
    (∀ c, s.phase = .trailer → s.tcnt.toNat ≤ 2 → ∃ t, exec (.fpByte c) s = .next t ∧ t.phase = .trailer) ∧
    (∀ c, s.phase = .trailer → s.tcnt = 3#3 → ∃ t, exec (.fpByte c) s = .next t ∧
      ((t.phase = .done ∧ t.trailer = crcFinish Config.spec t.rxCrc) ∨
        (t.phase = .err ∧ t.err = .checksumMismatch ∧ t.trailer ≠ crcFinish Config.spec t.rxCrc))) ∧
    (∀ c, s.phase = .done → ∃ t, exec (.fpByte c) s = .next t ∧ t.phase = .done ∧ t.surplus = true) ∧
    (s.inProgress = true → ∃ t, exec .fpEnd s = .next t ∧ t.phase = .err ∧ t.err = .truncatedFrame) ∧
    (s.phase = .done → ∃ t, exec .fpEnd s = .next t ∧ t.phase = .done) ∧
    (∀ i, s.phase = .idle ∨ s.phase = .err → isParserCommand i = true → i ≠ .fpStart →
      ∃ t, exec i s = .next t ∧ t.phase = s.phase) ∧
    (∀ i, isParserCommand i = false → ∃ t, exec i s = .next t ∧ t.phase = s.phase)

/-- 60_exceptions.md R183, R185, 10_state.md R25: whatever commands follow, short of `FP.START`, a failed frame keeps every parser
register, its first error included, and a `DONE` frame keeps every one but `SURPLUS`. -/
def Obligations.FinishedFrameStandsUntilFpStart : Prop :=
  ∀ (prog : List Instr) (s : State), .fpStart ∉ prog →
    (s.phase = .err → ∃ t, runInstrs prog s = .next t ∧ t.sameParser s) ∧
    (s.phase = .done → ∃ t, runInstrs prog s = .next t ∧ State.sameParser { t with surplus := s.surplus } s)

/-- 42_frame_parser.md R151 (the spec's inference): for every byte sequence and every state of the unit, `FP.PARSE` ends with the verdict
of `parseFrame`, its results in the registers, its payload on `pay`, and `CRC_ACC` as it was. -/
def Obligations.MachineAgreesWithParseFrame : Prop :=
  ∀ (raw : List Byte) (s : State), ∃ t, runInstrs (fpParse raw) s = .next t ∧ t.crcAcc = s.crcAcc ∧
    match parseFrame Config.spec raw with
    | .ok f =>
      t.phase = .done ∧ t.err = .none ∧ t.hdr = f.hdr ∧ t.hasRecv = f.recv ∧ t.hasSeq = f.seq ∧ t.payload = f.payload ∧
      payBytes (fpParse raw) s = f.payload ∧ t.surplus = f.surplus ∧ t.hlen = byteAt raw 0
    | .error e => t.phase = .err ∧ t.err.kind = some e

/-- The agreement of 42_frame_parser.md R151 for EVERY choice of the parameters of 00_scope.md R6, so that it rests on none of the values
of decisions D5 to D8. -/
def Obligations.MachineAgreesWithParseFrameForEveryParameter : Prop :=
  ∀ (cfg : Config) (raw : List Byte) (s : State),
    match parseFrame cfg raw with
    | .ok f =>
      (parseAt cfg raw s).phase = .done ∧ (parseAt cfg raw s).hdr = f.hdr ∧ (parseAt cfg raw s).hasRecv = f.recv ∧
      (parseAt cfg raw s).hasSeq = f.seq ∧ (parseAt cfg raw s).payload = f.payload ∧ (parseAt cfg raw s).surplus = f.surplus
    | .error e => (parseAt cfg raw s).phase = .err ∧ (parseAt cfg raw s).err.kind = some e

/-- 42_frame_parser.md R151, its last paragraph (the spec's inference): without `FP.END`, `DECODE_ERROR`, `CHECKSUM_MISMATCH` and `DONE` are
reached exactly when the bytes so far determine them, `TRUNCATED_FRAME` never; and what the bytes so far determine, no further byte
changes. -/
def Obligations.VerdictComesAtTheByteThatDeterminesIt : Prop :=
  ∀ (raw : List Byte) (s : State), ∃ t, runInstrs (.fpStart :: fpFeed raw) s = .next t ∧
    ((t.phase = .err ∧ t.err = .decodeError) ↔ parseFrame Config.spec raw = .error .decodeError) ∧
    ((t.phase = .err ∧ t.err = .checksumMismatch) ↔ parseFrame Config.spec raw = .error .checksumMismatch) ∧
    (t.phase = .done ↔ ∃ f, parseFrame Config.spec raw = .ok f) ∧
    t.err ≠ .truncatedFrame ∧
    (∀ ext, parseFrame Config.spec raw = .error .decodeError → parseFrame Config.spec (raw ++ ext) = .error .decodeError) ∧
    (∀ ext, parseFrame Config.spec raw = .error .checksumMismatch →
      parseFrame Config.spec (raw ++ ext) = .error .checksumMismatch) ∧
    (∀ ext f, parseFrame Config.spec raw = .ok f →
      parseFrame Config.spec (raw ++ ext) = .ok { f with surplus := f.surplus || !ext.isEmpty })

/-- 10_state.md R29: each accepted byte advances the frame offset by exactly one, and `FP.START` sets it to 0. The premise is the
invariant of `StepKeepsTheParserInvariant`. -/
def Obligations.AcceptedByteAdvancesTheOffsetByOne : Prop :=
  (∀ (s t : State) (c : Byte), ParserInv s → s.inProgress = true → exec (.fpByte c) s = .next t → t.phase ≠ .err →
    ∃ k, s.frameOffset = some k ∧ t.frameOffset = some (k + 1)) ∧
  (∀ s : State, ∃ t, exec .fpStart s = .next t ∧ t.frameOffset = some 0)

/-- 60_exceptions.md R193 (the spec's inference): where a frame failed is recomputed from the working registers the failure left. The
premise is the invariant of `StepKeepsTheParserInvariant`. -/
def Obligations.FailurePlaceIsRecomputed : Prop :=
  ∀ (s t : State) (i : Instr), ParserInv s → s.phase ≠ .err → exec i s = .next t → t.phase = .err →
    t.failureOffset = s.frameOffset ∧
    (t.err = .decodeError → t.failureOffset = some t.hlen.toNat) ∧
    (t.err = .checksumMismatch → t.failureOffset = some (t.hlen.toNat + t.hdr.length.toNat + 4)) ∧
    (t.err = .truncatedFrame → t.truncatedIn = s.phase)

/-- 10_state.md R27, R26: `pay` carries the byte of an `FP.BYTE` accepted in `PAYLOAD` and nothing else; and the bytes seen on `pay` since
the last `FP.START` are `PAYLOAD`. -/
def Obligations.PayloadIsWhatPayCarried : Prop :=
  (∀ (i : Instr) (s : State), ∃ t, exec i s = .next t ∧
    ∀ b, t.pay = some b ↔ i = .fpByte b ∧ s.phase = .payload) ∧
  (∀ (prog : List Instr) (s : State), .fpStart ∉ prog →
    ∃ t, runInstrs (.fpStart :: prog) s = .next t ∧ t.payload = payBytes (.fpStart :: prog) s)

/-! ### Groups of registers -/

/-- 10_state.md R32, the column "Written by", with R11: each register is written by the commands listed for it and by no other. -/
def Obligations.RegistersAreWrittenByTheirCommandsOnly : Prop :=
  ∀ (i : Instr) (s : State), ∃ t, exec i s = .next t ∧ t.port = s.port ∧
    (i ≠ .crcInit → (∀ c, i ≠ .crcUpd c) → t.crcAcc = s.crcAcc) ∧
    (isParserCommand i = false → t.sameParser s) ∧
    (i = .fpEnd → State.sameParser { t with phase := s.phase, err := s.err } s)

/-- 20_memory.md R48 (the spec's inference): a `CRC.*` step commutes with an `FP.*` step, registers and responses alike; and over a whole
command sequence, `CRC_ACC` depends on its `CRC.*` commands alone and the parser on its `FP.*` commands alone. -/
def Obligations.ReaderAndWriterDoNotDisturbEachOther : Prop :=
  (∀ (i j : Instr) (s : State), isCrcCommand i = true → isParserCommand j = true →
    ∃ a b c d : State, exec i s = .next a ∧ exec j a = .next b ∧ exec j s = .next c ∧ exec i c = .next d ∧
      b.sameRegisters d ∧ a.resp = d.resp ∧ a.pay = d.pay ∧ b.resp = c.resp ∧ b.pay = c.pay) ∧
  (∀ (prog : List Instr) (s : State), ∃ t u v : State, runInstrs prog s = .next t ∧
    runInstrs (prog.filter isParserCommand) s = .next u ∧ runInstrs (prog.filter isCrcCommand) s = .next v ∧
    t.sameParser u ∧ t.crcAcc = v.crcAcc)

/-- 20_memory.md R49, 10_state.md R30: nothing of an earlier frame shows in the next: from any two states, parsing the same bytes gives the
same outputs and leaves the same parser registers. -/
def Obligations.NothingOfAnEarlierFrameSurvives : Prop :=
  ∀ (raw : List Byte) (s s' : State), outputs (fpParse raw) s = outputs (fpParse raw) s' ∧
    ∃ t t', runInstrs (fpParse raw) s = .next t ∧ runInstrs (fpParse raw) s' = .next t' ∧ t.sameParser t'

/-! ### RD and STATUS -/

/-- 43_system.md R170 to R172: what `RD` answers, for every register number in every phase; no register is written. -/
def Obligations.RdAnswersTheRegister : Prop :=
  ∀ (s : State) (c : Byte),
    encode (.rd c) = 0x300000#24 ++ c ∧ runInstrs [.rd c, .rd c] s = runInstrs [.rd c] s ∧
    ∃ r : Response,
      exec (.rd c) s = .next { s with resp := some r, pay := none } ∧
      (0x08 ≤ c.toNat ∧ c.toNat ≤ 0x0F ∨ 0x1A ≤ c.toNat → r = ⟨.illegal, 0⟩) ∧
      (0x10 ≤ c.toNat → c.toNat ≤ 0x19 → s.phase ≠ .done → r = ⟨.notValid, 0⟩) ∧
      (c = 0x00 → r = ⟨.ok, s.status.setWidth 128⟩) ∧ (c = 0x01 → r = ⟨.ok, s.hlen.setWidth 128⟩) ∧
      (c = 0x02 → r = ⟨.ok, s.hcnt.setWidth 128⟩) ∧ (c = 0x03 → r = ⟨.ok, s.prem.setWidth 128⟩) ∧
      (c = 0x04 → r = ⟨.ok, s.tcnt.setWidth 128⟩) ∧ (c = 0x05 → r = ⟨.ok, s.trailer.setWidth 128⟩) ∧
      (c = 0x06 → r = ⟨.ok, s.rxCrc.setWidth 128⟩) ∧ (c = 0x07 → r = ⟨.ok, s.crcAcc.setWidth 128⟩) ∧
      (s.phase = .done →
        (c = 0x10 → r = ⟨.ok, s.hdr.id⟩) ∧ (c = 0x11 → r = ⟨.ok, s.hdr.sender⟩) ∧ (c = 0x12 → r = ⟨.ok, s.hdr.receiver⟩) ∧
        (c = 0x13 → r = ⟨.ok, s.hdr.timestamp.setWidth 128⟩) ∧ (c = 0x14 → r = ⟨.ok, s.hdr.length.setWidth 128⟩) ∧
        (c = 0x15 → r = ⟨.ok, s.hdr.sequence.setWidth 128⟩) ∧ (c = 0x16 → r = ⟨.ok, s.hdr.flags.setWidth 128⟩) ∧
        (c = 0x17 → r = ⟨.ok, s.hdr.msgType.setWidth 128⟩) ∧ (c = 0x18 → r = ⟨.ok, s.hdr.router.setWidth 128⟩) ∧
        (c = 0x19 → r = ⟨.ok, s.hdr.protocol.setWidth 128⟩))

/-- 10_state.md R22, with the codes of R12 and R13: the fields of `STATUS`, and where it is returned. -/
def Obligations.StatusHasTheStatedLayout : Prop :=
  ∀ s : State,
    s.status.extractLsb' 0 3 =
      (match s.phase with
        | .idle => 0 | .lenPrefix => 1 | .header => 2 | .payload => 3 | .trailer => 4 | .done => 5 | .err => 6) ∧
    s.status.extractLsb' 3 3 =
      (match s.err with
        | .none => 0 | .truncatedFrame => 1 | .decodeError => 2 | .checksumMismatch => 3) ∧
    s.status.getLsbD 6 = s.hasRecv ∧ s.status.getLsbD 7 = s.hasSeq ∧ s.status.getLsbD 8 = s.surplus ∧
    s.status.extractLsb' 9 23 = 0 ∧
    (∃ t, exec (.rd 0x00) s = .next t ∧ t.resp = some ⟨.ok, s.status.setWidth 128⟩) ∧
    (∀ i, isParserCommand i = true → ∃ t code, exec i s = .next t ∧ t.resp = some ⟨code, t.status.setWidth 128⟩)

/-! ### Invariants -/

/-- 10_state.md R31, R32: the invariant holds after reset. -/
def Obligations.ResetMeetsTheParserInvariant : Prop := ParserInv State.reset

/-- 10_state.md R31 strengthened to an inductive invariant: from EVERY state that meets it, a step leads to a state that meets it,
whatever stands at the port. -/
def Obligations.StepKeepsTheParserInvariant : Prop :=
  ∀ s : State, ParserInv s → ∃ t, step s = .next t ∧ ParserInv t

/-- 10_state.md R31 (the spec's inference): in every state reachable from reset by any input sequence the rule's clauses hold; and its
last clause: no `FP.*`, `PD.*` or `RD` command changes `CRC_ACC`. -/
def Obligations.ReachableStatesMeetTheStatedInvariants : Prop :=
  (∀ t : State, Reachable t → StateInvariant t) ∧
  (∀ (i : Instr) (s t : State), isCrcCommand i = false → exec i s = .next t → t.crcAcc = s.crcAcc)

/-- 10_state.md R25, R162: a result can be read, and a payload released, only from a frame whose trailer matched: in a reachable state in
`DONE` the four bytes shifted in are `crc32` of the payload, as many payload bytes came as `LENGTH` says, the caller gets the header with `HAS_RECV` and
`HAS_SEQ` as `RD` answers them and the payload, and an absent block reads zero. -/
def Obligations.DoneMeansTheTrailerMatched : Prop :=
  ∀ t : State, Reachable t → t.phase = .done →
    t.trailer = crc32 Config.spec t.payload ∧ t.payload.length = t.hdr.length.toNat ∧
    t.readResult = some (.ok ⟨t.hdr, t.hasRecv, t.hasSeq, t.payload⟩) ∧
    headerOfReads (responses headerReads t) = some (t.hdr, t.hasRecv, t.hasSeq) ∧ t.releasable = some t.payload ∧
    (t.hasRecv = false → t.hdr.receiver = 0) ∧ (t.hasSeq = false → t.hdr.sequence = 0)

/-- 70_reset_and_hazards.md R204 with 42_frame_parser.md R149: a host that feeds no byte in `DONE` never sees `SURPLUS`. -/
def Obligations.OneStartPerFrameNeverSetsSurplus : Prop :=
  ∀ (prog : List Instr) (s : State), s.surplus = false → obeys startBeforeNextFrame prog s = true →
    ∃ t, runInstrs prog s = .next t ∧ t.surplus = false

/-! ### What the checksum does and does not catch -/

/-- The source's property 3 (40_crc.md R105, 95_test_vectors.md S3): changing any one payload byte of an accepted frame makes it fail with
ChecksumMismatch. -/
def Obligations.ChangedPayloadByteIsCaught : Prop :=
  ∀ (raw : List Byte) (f : ParsedFrame) (i : Nat) (b : Byte), parseFrame Config.spec raw = .ok f →
    i < f.payload.length → b ≠ byteAt raw (1 + (byteAt raw 0).toNat + i) →
    parseFrame Config.spec (raw.set (1 + (byteAt raw 0).toNat + i) b) = .error .checksumMismatch

/-- 40_crc.md R104, 70_reset_and_hazards.md R209 (the spec's inference): the header is not covered. A changed header byte that is none of the
`Length` bytes, and a `MessageType` or `Protocol` byte that stays on its side of the predicate, is accepted with the same payload. -/
def Obligations.ChangedHeaderByteIsNotCaught : Prop :=
  ∀ (raw : List Byte) (f : ParsedFrame) (i : Nat) (b : Byte), parseFrame Config.spec raw = .ok f →
    i < (byteAt raw 0).toNat → (i < 40 ∨ 48 ≤ i) →
    (i = 49 → isBroadcast Config.spec b = f.recv) → (i = 51 → isDatagram Config.spec b = f.seq) →
    ∃ f', parseFrame Config.spec (raw.set (1 + i) b) = .ok f' ∧ f'.payload = f.payload ∧ f'.surplus = f.surplus ∧
      f'.recv = f.recv ∧ f'.seq = f.seq ∧ f'.hdr.length = f.hdr.length

/-- The source's property 4b (95_test_vectors.md S3; 42_frame_parser.md R140): an accepted frame cut short anywhere is truncated. -/
def Obligations.CutFrameIsTruncated : Prop :=
  ∀ (raw : List Byte) (f : ParsedFrame) (k : Nat), parseFrame Config.spec raw = .ok f →
    k < 1 + (byteAt raw 0).toNat + f.hdr.length.toNat + 4 → parseFrame Config.spec (raw.take k) = .error .truncatedFrame

/-- 42_frame_parser.md R160 to R162: `ReadFrame` on the unit gives the caller what `parseFrame` gives, `HAS_RECV` and `HAS_SEQ` included, on a
datagram and on a stream, and `RD` answers the same header; on a stream it takes exactly the frame's bytes and raises no `SURPLUS`; of a
failed frame nothing is given but the error, and nothing released. On a short stream read the driver feeds the bytes that came before
`FP.END`, which is the model's choice (log entry 7). -/
def Obligations.ReadFrameGivesWhatParseFrameGives : Prop :=
  ∀ (raw : List Byte) (s : State), ∃ d r : StreamRead,
    datagramReadFrame raw s = .next d ∧ streamReadFrame raw s = .next r ∧
    match parseFrame Config.spec raw with
    | .ok f =>
      d.result = some (.ok ⟨f.hdr, f.recv, f.seq, f.payload⟩) ∧ r.result = some (.ok ⟨f.hdr, f.recv, f.seq, f.payload⟩) ∧
      headerOfReads (responses headerReads d.state) = some (f.hdr, f.recv, f.seq) ∧
      headerOfReads (responses headerReads r.state) = some (f.hdr, f.recv, f.seq) ∧
      d.state.releasable = some f.payload ∧ r.state.releasable = some f.payload ∧
      r.rest = raw.drop (1 + (byteAt raw 0).toNat + f.payload.length + 4) ∧ r.state.surplus = false
    | .error e =>
      d.result = some (.error e) ∧ r.result = some (.error e) ∧ d.state.releasable = none ∧ r.state.releasable = none ∧
      headerOfReads (responses headerReads d.state) = none ∧ headerOfReads (responses headerReads r.state) = none
end

