-- ==== Sys2Proof/Laws/Bytes.lean ====
section
/-! SUPPORT. The small lemmas of the byte-sequence operations and of the header decoder: lengths, slices, and what
`decodeHeader` can answer. -/

namespace Sys2Proof.Machine

@[simp] theorem length_beBytes (n v : Nat) : (beBytes n v).length = n := by
  induction n with
  | zero => rfl
  | succ n ih => simp [beBytes, ih]

@[simp] theorem beNat_nil : beNat [] = 0 := rfl

theorem beNat_append_singleton (s : List Byte) (b : Byte) : beNat (s ++ [b]) = beNat s * 256 + b.toNat := by
  simp [beNat]

/-- A fold of `BE_n` from a value already read. -/
theorem beNat_foldl (s : List Byte) (v : Nat) :
    s.foldl (fun acc b => acc * 256 + b.toNat) v = v * 256 ^ s.length + beNat s := by
  induction s generalizing v with
  | nil => simp
  | cons b rest ih =>
    simp only [List.foldl_cons, List.length_cons, beNat]
    rw [ih, ih (0 * 256 + b.toNat)]
    ring

theorem beNat_cons (b : Byte) (s : List Byte) : beNat (b :: s) = b.toNat * 256 ^ s.length + beNat s := by
  have h := beNat_foldl s b.toNat
  simpa [beNat] using h

theorem beNat_append (s t : List Byte) : beNat (s ++ t) = beNat s * 256 ^ t.length + beNat t := by
  have h := beNat_foldl t (beNat s)
  simpa [beNat] using h

/-- `n` bytes hold a number below `256^n`. -/
theorem beNat_lt (s : List Byte) : beNat s < 256 ^ s.length := by
  induction s with
  | nil => simp
  | cons b rest ih =>
    rw [beNat_cons, List.length_cons, pow_succ]
    have hb := b.isLt
    nlinarith [Nat.one_le_two_pow (n := 8 * rest.length)]

/-- `BE_n` undoes `be_n` (R7). -/
theorem beNat_beBytes (n v : Nat) : beNat (beBytes n v) = v % 256 ^ n := by
  induction n with
  | zero => simp [beBytes, Nat.mod_one]
  | succ n ih =>
    rw [beBytes, beNat_cons, ih, length_beBytes, BitVec.toNat_ofNat, pow_succ 256 n, Nat.mod_mul, Nat.add_comm, Nat.mul_comm]

@[simp] theorem length_slice (s : List Byte) (i j : Nat) : (slice s i j).length = min (j - i) (s.length - i) := by
  simp [slice]

theorem slice_zero (s : List Byte) (n : Nat) : slice s 0 n = s.take n := by simp [slice]

theorem memRead_eq (raw : List Byte) (off n : Nat) : memRead raw off n = (raw.drop off).take n := by
  simp [memRead, slice]

/-- A read within the bounds has the length asked for (R41). -/
theorem length_memRead (raw : List Byte) (off n : Nat) (h : off + n ≤ raw.length) : (memRead raw off n).length = n := by
  rw [memRead_eq, List.length_take, List.length_drop]
  omega

/-- Every header length `presence` implies lies in SH's bounds (R122). -/
theorem presence_len_bounds (cfg : Config) (mt pr : Byte) :
    hdrMin ≤ (presence cfg mt pr).len ∧ (presence cfg mt pr).len ≤ hdrMax := by
  simp only [presence, hdrBase, recvLen, seqLen, hdrMin, hdrMax]
  split <;> split <;> omega

/-- Everything `decodeHeader` can accept (R124): the length the control bytes imply, and the fields under that presence. -/
theorem decodeHeader_ok {cfg : Config} {hb : List Byte} {d : Decoded} (h : decodeHeader cfg hb = .ok d) :
    hdrMin ≤ hb.length ∧ hb.length ≤ hdrMax ∧
    (presence cfg (byteAt hb cfg.offMsgType) (byteAt hb cfg.offProtocol)).len = hb.length ∧
    d = ⟨headerFields cfg (presence cfg (byteAt hb cfg.offMsgType) (byteAt hb cfg.offProtocol)) hb,
      isBroadcast cfg (byteAt hb cfg.offMsgType), isDatagram cfg (byteAt hb cfg.offProtocol)⟩ := by
  simp only [decodeHeader] at h
  split at h
  · cases h
  · rename_i hlen
    split at h
    · cases h
    · rename_i hn
      injection h with h
      refine ⟨by omega, by omega, by simpa using hn, ?_⟩
      rw [← h]
      rfl

/-- The one error of `decodeHeader` (R124). -/
theorem decodeHeader_error {cfg : Config} {hb : List Byte} {e : ErrorKind} (h : decodeHeader cfg hb = .error e) :
    e = .decodeError := by
  simp only [decodeHeader] at h
  split at h
  · injection h with h; exact h.symm
  · split at h
    · injection h with h; exact h.symm
    · cases h

/-- A header that decodes holds its control bytes raw and its absent blocks as zero (R65, R25). -/
theorem decodeHeader_fields {cfg : Config} {hb : List Byte} {d : Decoded} (h : decodeHeader cfg hb = .ok d) :
    d.recv = (d.hdr.msgType == cfg.mtBroadcast) ∧ d.seq = (d.hdr.protocol == cfg.protoDatagram) ∧
    (d.recv = false → d.hdr.receiver = 0) ∧ (d.seq = false → d.hdr.sequence = 0) := by
  obtain ⟨-, -, -, rfl⟩ := decodeHeader_ok h
  refine ⟨rfl, rfl, fun hr => ?_, fun hs => ?_⟩
  · simp_all [headerFields, presence]
  · simp_all [headerFields, presence]

end Sys2Proof.Machine
end

