-- ==== Sys2Proof/Laws/Crc.lean ====
section
/-! SUPPORT. The small lemmas of the CRC operations. -/

namespace Sys2Proof.Machine

@[simp] theorem crcFold_nil (cfg : Config) (acc : Word) : crcFold cfg acc [] = acc := rfl

@[simp] theorem crcFold_cons (cfg : Config) (acc : Word) (b : Byte) (s : List Byte) :
    crcFold cfg acc (b :: s) = crcFold cfg (crcStep cfg acc b) s := rfl

/-- Splitting does not matter (R105 (d)). -/
theorem crcFold_append (cfg : Config) (acc : Word) (s t : List Byte) :
    crcFold cfg acc (s ++ t) = crcFold cfg (crcFold cfg acc s) t := by simp [crcFold]

/-- The unit's code: the remainder with all bits inverted (R102). -/
theorem crcFinish_spec (acc : Word) : crcFinish Config.spec acc = acc ^^^ 0xFFFFFFFF#32 := rfl

/-- The unit's shift step (R101). -/
theorem crcShift_spec (acc : Word) :
    crcShift Config.spec acc = if acc.getLsbD 0 then (acc >>> 1) ^^^ 0xEDB88320#32 else acc >>> 1 := rfl

/-- The unit's `crc_step` is eight shift steps after the byte is added (R101). -/
theorem crcStep_reflected {cfg : Config} (h : cfg.crcRefIn = true) (acc : Word) (b : Byte) :
    crcStep cfg acc b = repeatTimes (crcShift cfg) 8 (acc ^^^ b.setWidth 32) := by simp [crcStep, h]

/-- The final step of a CRC loses nothing. -/
theorem crcFinish_injective (cfg : Config) {x y : Word} (h : crcFinish cfg x = crcFinish cfg y) : x = y := by
  simp only [crcFinish, BitVec.xor_left_inj] at h
  split at h
  · exact h
  · have := congrArg BitVec.reverse h
    simpa using this

end Sys2Proof.Machine
end

