-- ==== Sys2Proof/Laws/State.lean ====
section
/-! SUPPORT. One lemma per field and update of `State`, each true by `rfl`, so that no proof unfolds a record update. -/

namespace Sys2Proof.Machine

variable (s : State) (cfg : Config)


/-! ### `State.respond` changes `resp` only (R84) -/

@[simp] theorem State.respond_crcAcc (code : RespCode) (data : Qword) : (s.respond code data).crcAcc = s.crcAcc := rfl
@[simp] theorem State.respond_phase (code : RespCode) (data : Qword) : (s.respond code data).phase = s.phase := rfl
@[simp] theorem State.respond_err (code : RespCode) (data : Qword) : (s.respond code data).err = s.err := rfl
@[simp] theorem State.respond_hlen (code : RespCode) (data : Qword) : (s.respond code data).hlen = s.hlen := rfl
@[simp] theorem State.respond_hcnt (code : RespCode) (data : Qword) : (s.respond code data).hcnt = s.hcnt := rfl
@[simp] theorem State.respond_hbuf (code : RespCode) (data : Qword) : (s.respond code data).hbuf = s.hbuf := rfl
@[simp] theorem State.respond_prem (code : RespCode) (data : Qword) : (s.respond code data).prem = s.prem := rfl
@[simp] theorem State.respond_tcnt (code : RespCode) (data : Qword) : (s.respond code data).tcnt = s.tcnt := rfl
@[simp] theorem State.respond_trailer (code : RespCode) (data : Qword) : (s.respond code data).trailer = s.trailer := rfl
@[simp] theorem State.respond_rxCrc (code : RespCode) (data : Qword) : (s.respond code data).rxCrc = s.rxCrc := rfl
@[simp] theorem State.respond_hasRecv (code : RespCode) (data : Qword) : (s.respond code data).hasRecv = s.hasRecv := rfl
@[simp] theorem State.respond_hasSeq (code : RespCode) (data : Qword) : (s.respond code data).hasSeq = s.hasSeq := rfl
@[simp] theorem State.respond_surplus (code : RespCode) (data : Qword) : (s.respond code data).surplus = s.surplus := rfl
@[simp] theorem State.respond_payload (code : RespCode) (data : Qword) : (s.respond code data).payload = s.payload := rfl
@[simp] theorem State.respond_hdr (code : RespCode) (data : Qword) : (s.respond code data).hdr = s.hdr := rfl
@[simp] theorem State.respond_resp (code : RespCode) (data : Qword) : (s.respond code data).resp = some ⟨code, data⟩ := rfl
@[simp] theorem State.respond_pay (code : RespCode) (data : Qword) : (s.respond code data).pay = s.pay := rfl
@[simp] theorem State.respond_port (code : RespCode) (data : Qword) : (s.respond code data).port = s.port := rfl

/-! ### `State.quiet` changes `pay` only (R27) -/

@[simp] theorem State.quiet_crcAcc : (s.quiet).crcAcc = s.crcAcc := rfl
@[simp] theorem State.quiet_phase : (s.quiet).phase = s.phase := rfl
@[simp] theorem State.quiet_err : (s.quiet).err = s.err := rfl
@[simp] theorem State.quiet_hlen : (s.quiet).hlen = s.hlen := rfl
@[simp] theorem State.quiet_hcnt : (s.quiet).hcnt = s.hcnt := rfl
@[simp] theorem State.quiet_hbuf : (s.quiet).hbuf = s.hbuf := rfl
@[simp] theorem State.quiet_prem : (s.quiet).prem = s.prem := rfl
@[simp] theorem State.quiet_tcnt : (s.quiet).tcnt = s.tcnt := rfl
@[simp] theorem State.quiet_trailer : (s.quiet).trailer = s.trailer := rfl
@[simp] theorem State.quiet_rxCrc : (s.quiet).rxCrc = s.rxCrc := rfl
@[simp] theorem State.quiet_hasRecv : (s.quiet).hasRecv = s.hasRecv := rfl
@[simp] theorem State.quiet_hasSeq : (s.quiet).hasSeq = s.hasSeq := rfl
@[simp] theorem State.quiet_surplus : (s.quiet).surplus = s.surplus := rfl
@[simp] theorem State.quiet_payload : (s.quiet).payload = s.payload := rfl
@[simp] theorem State.quiet_hdr : (s.quiet).hdr = s.hdr := rfl
@[simp] theorem State.quiet_resp : (s.quiet).resp = s.resp := rfl
@[simp] theorem State.quiet_pay : (s.quiet).pay = none := rfl
@[simp] theorem State.quiet_port : (s.quiet).port = s.port := rfl

/-! ### `State.emit` changes `pay` only (R27) -/

@[simp] theorem State.emit_crcAcc (b : Byte) : (s.emit b).crcAcc = s.crcAcc := rfl
@[simp] theorem State.emit_phase (b : Byte) : (s.emit b).phase = s.phase := rfl
@[simp] theorem State.emit_err (b : Byte) : (s.emit b).err = s.err := rfl
@[simp] theorem State.emit_hlen (b : Byte) : (s.emit b).hlen = s.hlen := rfl
@[simp] theorem State.emit_hcnt (b : Byte) : (s.emit b).hcnt = s.hcnt := rfl
@[simp] theorem State.emit_hbuf (b : Byte) : (s.emit b).hbuf = s.hbuf := rfl
@[simp] theorem State.emit_prem (b : Byte) : (s.emit b).prem = s.prem := rfl
@[simp] theorem State.emit_tcnt (b : Byte) : (s.emit b).tcnt = s.tcnt := rfl
@[simp] theorem State.emit_trailer (b : Byte) : (s.emit b).trailer = s.trailer := rfl
@[simp] theorem State.emit_rxCrc (b : Byte) : (s.emit b).rxCrc = s.rxCrc := rfl
@[simp] theorem State.emit_hasRecv (b : Byte) : (s.emit b).hasRecv = s.hasRecv := rfl
@[simp] theorem State.emit_hasSeq (b : Byte) : (s.emit b).hasSeq = s.hasSeq := rfl
@[simp] theorem State.emit_surplus (b : Byte) : (s.emit b).surplus = s.surplus := rfl
@[simp] theorem State.emit_payload (b : Byte) : (s.emit b).payload = s.payload := rfl
@[simp] theorem State.emit_hdr (b : Byte) : (s.emit b).hdr = s.hdr := rfl
@[simp] theorem State.emit_resp (b : Byte) : (s.emit b).resp = s.resp := rfl
@[simp] theorem State.emit_pay (b : Byte) : (s.emit b).pay = some b := rfl
@[simp] theorem State.emit_port (b : Byte) : (s.emit b).port = s.port := rfl

/-! ### `State.respondStatus` changes `resp` only (R22, R141) -/

@[simp] theorem State.respondStatus_crcAcc (code : RespCode) : (s.respondStatus code).crcAcc = s.crcAcc := rfl
@[simp] theorem State.respondStatus_phase (code : RespCode) : (s.respondStatus code).phase = s.phase := rfl
@[simp] theorem State.respondStatus_err (code : RespCode) : (s.respondStatus code).err = s.err := rfl
@[simp] theorem State.respondStatus_hlen (code : RespCode) : (s.respondStatus code).hlen = s.hlen := rfl
@[simp] theorem State.respondStatus_hcnt (code : RespCode) : (s.respondStatus code).hcnt = s.hcnt := rfl
@[simp] theorem State.respondStatus_hbuf (code : RespCode) : (s.respondStatus code).hbuf = s.hbuf := rfl
@[simp] theorem State.respondStatus_prem (code : RespCode) : (s.respondStatus code).prem = s.prem := rfl
@[simp] theorem State.respondStatus_tcnt (code : RespCode) : (s.respondStatus code).tcnt = s.tcnt := rfl
@[simp] theorem State.respondStatus_trailer (code : RespCode) : (s.respondStatus code).trailer = s.trailer := rfl
@[simp] theorem State.respondStatus_rxCrc (code : RespCode) : (s.respondStatus code).rxCrc = s.rxCrc := rfl
@[simp] theorem State.respondStatus_hasRecv (code : RespCode) : (s.respondStatus code).hasRecv = s.hasRecv := rfl
@[simp] theorem State.respondStatus_hasSeq (code : RespCode) : (s.respondStatus code).hasSeq = s.hasSeq := rfl
@[simp] theorem State.respondStatus_surplus (code : RespCode) : (s.respondStatus code).surplus = s.surplus := rfl
@[simp] theorem State.respondStatus_payload (code : RespCode) : (s.respondStatus code).payload = s.payload := rfl
@[simp] theorem State.respondStatus_hdr (code : RespCode) : (s.respondStatus code).hdr = s.hdr := rfl
@[simp] theorem State.respondStatus_resp (code : RespCode) : (s.respondStatus code).resp = some ⟨code, s.status.setWidth 128⟩ := rfl
@[simp] theorem State.respondStatus_pay (code : RespCode) : (s.respondStatus code).pay = s.pay := rfl
@[simp] theorem State.respondStatus_port (code : RespCode) : (s.respondStatus code).port = s.port := rfl

/-! ### `State.fail` changes `phase` and `err` only (R184) -/

@[simp] theorem State.fail_crcAcc (e : ErrCode) : (s.fail e).crcAcc = s.crcAcc := rfl
@[simp] theorem State.fail_phase (e : ErrCode) : (s.fail e).phase = .err := rfl
@[simp] theorem State.fail_err (e : ErrCode) : (s.fail e).err = e := rfl
@[simp] theorem State.fail_hlen (e : ErrCode) : (s.fail e).hlen = s.hlen := rfl
@[simp] theorem State.fail_hcnt (e : ErrCode) : (s.fail e).hcnt = s.hcnt := rfl
@[simp] theorem State.fail_hbuf (e : ErrCode) : (s.fail e).hbuf = s.hbuf := rfl
@[simp] theorem State.fail_prem (e : ErrCode) : (s.fail e).prem = s.prem := rfl
@[simp] theorem State.fail_tcnt (e : ErrCode) : (s.fail e).tcnt = s.tcnt := rfl
@[simp] theorem State.fail_trailer (e : ErrCode) : (s.fail e).trailer = s.trailer := rfl
@[simp] theorem State.fail_rxCrc (e : ErrCode) : (s.fail e).rxCrc = s.rxCrc := rfl
@[simp] theorem State.fail_hasRecv (e : ErrCode) : (s.fail e).hasRecv = s.hasRecv := rfl
@[simp] theorem State.fail_hasSeq (e : ErrCode) : (s.fail e).hasSeq = s.hasSeq := rfl
@[simp] theorem State.fail_surplus (e : ErrCode) : (s.fail e).surplus = s.surplus := rfl
@[simp] theorem State.fail_payload (e : ErrCode) : (s.fail e).payload = s.payload := rfl
@[simp] theorem State.fail_hdr (e : ErrCode) : (s.fail e).hdr = s.hdr := rfl
@[simp] theorem State.fail_resp (e : ErrCode) : (s.fail e).resp = s.resp := rfl
@[simp] theorem State.fail_pay (e : ErrCode) : (s.fail e).pay = s.pay := rfl
@[simp] theorem State.fail_port (e : ErrCode) : (s.fail e).port = s.port := rfl

/-! ### `State.openFrame` clears the parser and leaves `crcAcc`, the outputs and the port (R142) -/

@[simp] theorem State.openFrame_crcAcc : (s.openFrame cfg).crcAcc = s.crcAcc := rfl
@[simp] theorem State.openFrame_phase : (s.openFrame cfg).phase = .lenPrefix := rfl
@[simp] theorem State.openFrame_err : (s.openFrame cfg).err = .none := rfl
@[simp] theorem State.openFrame_hlen : (s.openFrame cfg).hlen = 0 := rfl
@[simp] theorem State.openFrame_hcnt : (s.openFrame cfg).hcnt = 0 := rfl
@[simp] theorem State.openFrame_hbuf : (s.openFrame cfg).hbuf = Vector.replicate hdrMax 0 := rfl
@[simp] theorem State.openFrame_prem : (s.openFrame cfg).prem = 0 := rfl
@[simp] theorem State.openFrame_tcnt : (s.openFrame cfg).tcnt = 0 := rfl
@[simp] theorem State.openFrame_trailer : (s.openFrame cfg).trailer = 0 := rfl
@[simp] theorem State.openFrame_rxCrc : (s.openFrame cfg).rxCrc = cfg.crcInit := rfl
@[simp] theorem State.openFrame_hasRecv : (s.openFrame cfg).hasRecv = false := rfl
@[simp] theorem State.openFrame_hasSeq : (s.openFrame cfg).hasSeq = false := rfl
@[simp] theorem State.openFrame_surplus : (s.openFrame cfg).surplus = false := rfl
@[simp] theorem State.openFrame_payload : (s.openFrame cfg).payload = [] := rfl
@[simp] theorem State.openFrame_hdr : (s.openFrame cfg).hdr = Header.zero := rfl
@[simp] theorem State.openFrame_resp : (s.openFrame cfg).resp = s.resp := rfl
@[simp] theorem State.openFrame_pay : (s.openFrame cfg).pay = s.pay := rfl
@[simp] theorem State.openFrame_port : (s.openFrame cfg).port = s.port := rfl

/-! ### `State.takeReset` leaves the port only (R200) -/

@[simp] theorem State.takeReset_crcAcc : (s.takeReset cfg).crcAcc = cfg.crcInit := rfl
@[simp] theorem State.takeReset_phase : (s.takeReset cfg).phase = .idle := rfl
@[simp] theorem State.takeReset_err : (s.takeReset cfg).err = .none := rfl
@[simp] theorem State.takeReset_hlen : (s.takeReset cfg).hlen = 0 := rfl
@[simp] theorem State.takeReset_hcnt : (s.takeReset cfg).hcnt = 0 := rfl
@[simp] theorem State.takeReset_hbuf : (s.takeReset cfg).hbuf = Vector.replicate hdrMax 0 := rfl
@[simp] theorem State.takeReset_prem : (s.takeReset cfg).prem = 0 := rfl
@[simp] theorem State.takeReset_tcnt : (s.takeReset cfg).tcnt = 0 := rfl
@[simp] theorem State.takeReset_trailer : (s.takeReset cfg).trailer = 0 := rfl
@[simp] theorem State.takeReset_rxCrc : (s.takeReset cfg).rxCrc = cfg.crcInit := rfl
@[simp] theorem State.takeReset_hasRecv : (s.takeReset cfg).hasRecv = false := rfl
@[simp] theorem State.takeReset_hasSeq : (s.takeReset cfg).hasSeq = false := rfl
@[simp] theorem State.takeReset_surplus : (s.takeReset cfg).surplus = false := rfl
@[simp] theorem State.takeReset_payload : (s.takeReset cfg).payload = [] := rfl
@[simp] theorem State.takeReset_hdr : (s.takeReset cfg).hdr = Header.zero := rfl
@[simp] theorem State.takeReset_resp : (s.takeReset cfg).resp = none := rfl
@[simp] theorem State.takeReset_pay : (s.takeReset cfg).pay = none := rfl
@[simp] theorem State.takeReset_port : (s.takeReset cfg).port = s.port := rfl

/-! ### `State.illegal` changes the outputs only (R189) -/

@[simp] theorem State.illegal_crcAcc : (s.illegal).crcAcc = s.crcAcc := rfl
@[simp] theorem State.illegal_phase : (s.illegal).phase = s.phase := rfl
@[simp] theorem State.illegal_err : (s.illegal).err = s.err := rfl
@[simp] theorem State.illegal_hlen : (s.illegal).hlen = s.hlen := rfl
@[simp] theorem State.illegal_hcnt : (s.illegal).hcnt = s.hcnt := rfl
@[simp] theorem State.illegal_hbuf : (s.illegal).hbuf = s.hbuf := rfl
@[simp] theorem State.illegal_prem : (s.illegal).prem = s.prem := rfl
@[simp] theorem State.illegal_tcnt : (s.illegal).tcnt = s.tcnt := rfl
@[simp] theorem State.illegal_trailer : (s.illegal).trailer = s.trailer := rfl
@[simp] theorem State.illegal_rxCrc : (s.illegal).rxCrc = s.rxCrc := rfl
@[simp] theorem State.illegal_hasRecv : (s.illegal).hasRecv = s.hasRecv := rfl
@[simp] theorem State.illegal_hasSeq : (s.illegal).hasSeq = s.hasSeq := rfl
@[simp] theorem State.illegal_surplus : (s.illegal).surplus = s.surplus := rfl
@[simp] theorem State.illegal_payload : (s.illegal).payload = s.payload := rfl
@[simp] theorem State.illegal_hdr : (s.illegal).hdr = s.hdr := rfl
@[simp] theorem State.illegal_resp : (s.illegal).resp = some ⟨.illegal, 0⟩ := rfl
@[simp] theorem State.illegal_pay : (s.illegal).pay = none := rfl
@[simp] theorem State.illegal_port : (s.illegal).port = s.port := rfl

/-! ### `State.surplusByte` changes `surplus` only (R149) -/

@[simp] theorem State.surplusByte_crcAcc : (s.surplusByte).crcAcc = s.crcAcc := rfl
@[simp] theorem State.surplusByte_phase : (s.surplusByte).phase = s.phase := rfl
@[simp] theorem State.surplusByte_err : (s.surplusByte).err = s.err := rfl
@[simp] theorem State.surplusByte_hlen : (s.surplusByte).hlen = s.hlen := rfl
@[simp] theorem State.surplusByte_hcnt : (s.surplusByte).hcnt = s.hcnt := rfl
@[simp] theorem State.surplusByte_hbuf : (s.surplusByte).hbuf = s.hbuf := rfl
@[simp] theorem State.surplusByte_prem : (s.surplusByte).prem = s.prem := rfl
@[simp] theorem State.surplusByte_tcnt : (s.surplusByte).tcnt = s.tcnt := rfl
@[simp] theorem State.surplusByte_trailer : (s.surplusByte).trailer = s.trailer := rfl
@[simp] theorem State.surplusByte_rxCrc : (s.surplusByte).rxCrc = s.rxCrc := rfl
@[simp] theorem State.surplusByte_hasRecv : (s.surplusByte).hasRecv = s.hasRecv := rfl
@[simp] theorem State.surplusByte_hasSeq : (s.surplusByte).hasSeq = s.hasSeq := rfl
@[simp] theorem State.surplusByte_surplus : (s.surplusByte).surplus = true := rfl
@[simp] theorem State.surplusByte_payload : (s.surplusByte).payload = s.payload := rfl
@[simp] theorem State.surplusByte_hdr : (s.surplusByte).hdr = s.hdr := rfl
@[simp] theorem State.surplusByte_resp : (s.surplusByte).resp = s.resp := rfl
@[simp] theorem State.surplusByte_pay : (s.surplusByte).pay = s.pay := rfl
@[simp] theorem State.surplusByte_port : (s.surplusByte).port = s.port := rfl

/-! ### `State.present` changes the port only -/

@[simp] theorem State.present_crcAcc (w : Word) : (s.present w).crcAcc = s.crcAcc := rfl
@[simp] theorem State.present_phase (w : Word) : (s.present w).phase = s.phase := rfl
@[simp] theorem State.present_err (w : Word) : (s.present w).err = s.err := rfl
@[simp] theorem State.present_hlen (w : Word) : (s.present w).hlen = s.hlen := rfl
@[simp] theorem State.present_hcnt (w : Word) : (s.present w).hcnt = s.hcnt := rfl
@[simp] theorem State.present_hbuf (w : Word) : (s.present w).hbuf = s.hbuf := rfl
@[simp] theorem State.present_prem (w : Word) : (s.present w).prem = s.prem := rfl
@[simp] theorem State.present_tcnt (w : Word) : (s.present w).tcnt = s.tcnt := rfl
@[simp] theorem State.present_trailer (w : Word) : (s.present w).trailer = s.trailer := rfl
@[simp] theorem State.present_rxCrc (w : Word) : (s.present w).rxCrc = s.rxCrc := rfl
@[simp] theorem State.present_hasRecv (w : Word) : (s.present w).hasRecv = s.hasRecv := rfl
@[simp] theorem State.present_hasSeq (w : Word) : (s.present w).hasSeq = s.hasSeq := rfl
@[simp] theorem State.present_surplus (w : Word) : (s.present w).surplus = s.surplus := rfl
@[simp] theorem State.present_payload (w : Word) : (s.present w).payload = s.payload := rfl
@[simp] theorem State.present_hdr (w : Word) : (s.present w).hdr = s.hdr := rfl
@[simp] theorem State.present_resp (w : Word) : (s.present w).resp = s.resp := rfl
@[simp] theorem State.present_pay (w : Word) : (s.present w).pay = s.pay := rfl
@[simp] theorem State.present_port (w : Word) : (s.present w).port = .command w :: s.port := rfl

/-! ### The views look at registers only -/

@[simp] theorem State.status_respond (code : RespCode) (data : Qword) : (s.respond code data).status = s.status := rfl
@[simp] theorem State.status_quiet : s.quiet.status = s.status := rfl
@[simp] theorem State.status_emit (b : Byte) : (s.emit b).status = s.status := rfl
@[simp] theorem State.status_respondStatus (code : RespCode) : (s.respondStatus code).status = s.status := rfl

end Sys2Proof.Machine
end

