-- ==== Sys2Proof/Laws/Parser.lean ====
section
/-! SUPPORT. What each operation of the frame parser can do, once: the provers cite these instead of unfolding. -/

namespace Sys2Proof.Machine

/-- The fields header completion can change, and no others (R146). -/
theorem State.headerComplete_frame (cfg : Config) (s : State) :
    (s.headerComplete cfg).crcAcc = s.crcAcc ∧ (s.headerComplete cfg).hlen = s.hlen ∧ (s.headerComplete cfg).hcnt = s.hcnt ∧
    (s.headerComplete cfg).hbuf = s.hbuf ∧ (s.headerComplete cfg).tcnt = s.tcnt ∧ (s.headerComplete cfg).trailer = s.trailer ∧
    (s.headerComplete cfg).rxCrc = s.rxCrc ∧ (s.headerComplete cfg).surplus = s.surplus ∧
    (s.headerComplete cfg).payload = s.payload ∧ (s.headerComplete cfg).resp = s.resp ∧ (s.headerComplete cfg).pay = s.pay ∧
    (s.headerComplete cfg).port = s.port := by
  unfold State.headerComplete
  split
  · simp
  · split <;> simp

/-- Header completion either fails the frame with `DECODE_ERROR` and changes nothing else, or decodes `HBUF[0 : HLEN]` (R146). -/
theorem State.headerComplete_cases (cfg : Config) (s : State) :
    s.headerComplete cfg = s.fail .decodeError ∨
    ∃ d, hdrMin ≤ s.hlen.toNat ∧ s.hlen.toNat ≤ hdrMax ∧
      decodeHeader cfg (slice s.hbuf.toList 0 s.hlen.toNat) = .ok d ∧
      s.headerComplete cfg =
        { s with
          hdr := d.hdr, hasRecv := d.recv, hasSeq := d.seq, prem := d.hdr.length,
          phase := if d.hdr.length = 0#64 then .trailer else .payload } := by
  unfold State.headerComplete
  split
  · exact .inl rfl
  · split
    · exact .inl rfl
    · rename_i d hd
      exact .inr ⟨d, by omega, by omega, hd, rfl⟩

/-- A length out of bounds fails (R146, first cause). -/
theorem State.headerComplete_of_bounds (cfg : Config) (s : State) (h : s.hlen.toNat < hdrMin ∨ hdrMax < s.hlen.toNat) :
    s.headerComplete cfg = s.fail .decodeError := by simp [State.headerComplete, h]

/-- A header that does not decode fails (R146, second cause). -/
theorem State.headerComplete_of_error (cfg : Config) (s : State) {e : ErrorKind}
    (h : decodeHeader cfg (slice s.hbuf.toList 0 s.hlen.toNat) = .error e) : s.headerComplete cfg = s.fail .decodeError := by
  unfold State.headerComplete
  split
  · rfl
  · rw [h]

/-- A header that decodes is written to the result registers (R146). -/
theorem State.headerComplete_of_ok (cfg : Config) (s : State) {d : Decoded} (h₁ : hdrMin ≤ s.hlen.toNat)
    (h₂ : s.hlen.toNat ≤ hdrMax) (h : decodeHeader cfg (slice s.hbuf.toList 0 s.hlen.toNat) = .ok d) :
    s.headerComplete cfg =
      { s with
        hdr := d.hdr, hasRecv := d.recv, hasSeq := d.seq, prem := d.hdr.length,
        phase := if d.hdr.length = 0#64 then .trailer else .payload } := by
  unfold State.headerComplete
  rw [if_neg (by omega), h]

/-- The prefix byte opens the header, and the prefix 0 fails at once (R144). -/
theorem State.prefixByte_eq (cfg : Config) (c : Byte) (s : State) :
    s.prefixByte cfg c =
      if c = 0#8 then ({ s with hlen := c, hcnt := 0#8, phase := .header } : State).fail .decodeError
      else { s with hlen := c, hcnt := 0#8, phase := .header } := by
  unfold State.prefixByte State.completeIfFull
  by_cases hc : c = 0#8
  · subst hc
    rw [if_pos rfl, if_pos rfl]
    exact State.headerComplete_of_bounds cfg _ (.inl (show (0 : Byte).toNat < hdrMin by decide))
  · rw [if_neg (fun h => hc h.symm), if_neg hc]

/-- A header byte that is not the last is stored and counted (R145). -/
theorem State.headerByte_of_lt (cfg : Config) (c : Byte) (s : State) (h : s.hcnt + 1#8 ≠ s.hlen) :
    s.headerByte cfg c = { s with hbuf := s.hbuf.setIfInBounds s.hcnt.toNat c, hcnt := s.hcnt + 1#8 } := if_neg h

/-- The last header byte is stored and counted, and the header completes in the same step (R145, R146). -/
theorem State.headerByte_of_eq (cfg : Config) (c : Byte) (s : State) (h : s.hcnt + 1#8 = s.hlen) :
    s.headerByte cfg c =
      ({ s with hbuf := s.hbuf.setIfInBounds s.hcnt.toNat c, hcnt := s.hcnt + 1#8 } : State).headerComplete cfg := if_pos h

/-- A counter one above 1 reaches zero exactly at 1 (R147). -/
theorem prem_sub_one_eq_zero (x : Dword) : x - 1#64 = 0#64 ↔ x = 1#64 := by
  constructor
  · intro h
    have := congrArg (· + 1#64) h
    simpa using this
  · rintro rfl
    rfl

/-- A payload byte is folded, passed out and counted (R147). -/
theorem State.payloadByte_eq (cfg : Config) (c : Byte) (s : State) :
    s.payloadByte cfg c =
      { s with
        rxCrc := crcStep cfg s.rxCrc c, payload := s.payload ++ [c], prem := s.prem - 1#64, pay := some c,
        phase := if s.prem = 1#64 then .trailer else s.phase } := by
  change ite (s.prem - 1#64 = 0#64) _ _ = _
  by_cases h : s.prem = 1#64
  · rw [if_pos ((prem_sub_one_eq_zero _).2 h), if_pos h]
    rfl
  · rw [if_neg (fun h' => h ((prem_sub_one_eq_zero _).1 h')), if_neg h]
    rfl

/-- The fourth trailer byte is the one that finds three counted (R148). -/
theorem tcnt_add_one_eq_four (x : BitVec 3) : x + 1#3 = 4#3 ↔ x = 3#3 := by
  revert x
  decide

/-- A trailer byte before the fourth is shifted in and counted (R148). -/
theorem State.trailerByte_of_ne (cfg : Config) (c : Byte) (s : State) (h : s.tcnt ≠ 3#3) :
    s.trailerByte cfg c = { s with trailer := (s.trailer <<< 8) ||| c.setWidth 32, tcnt := s.tcnt + 1#3 } := by
  change ite (s.tcnt + 1#3 = 4#3) _ _ = _
  rw [if_neg (fun h' => h ((tcnt_add_one_eq_four _).1 h'))]

/-- The fourth trailer byte decides the frame (R148). -/
theorem State.trailerByte_of_eq (cfg : Config) (c : Byte) (s : State) (h : s.tcnt = 3#3) :
    s.trailerByte cfg c =
      if (s.trailer <<< 8) ||| c.setWidth 32 = crcFinish cfg s.rxCrc then
        { s with trailer := (s.trailer <<< 8) ||| c.setWidth 32, tcnt := 4#3, phase := .done }
      else
        { s with trailer := (s.trailer <<< 8) ||| c.setWidth 32, tcnt := 4#3, phase := .err, err := .checksumMismatch } := by
  have h' : s.tcnt + 1#3 = 4#3 := (tcnt_add_one_eq_four _).2 h
  change ite (s.tcnt + 1#3 = 4#3) _ _ = _
  rw [if_pos h', h']
  rfl

/-! ### `FP.BYTE` and `FP.END`, phase by phase -/

theorem fpByteAt_idle (cfg : Config) (c : Byte) {s : State} (h : s.phase = .idle) :
    fpByteAt cfg c s = s.quiet.respondStatus .ignored := by simp [fpByteAt, h]

theorem fpByteAt_lenPrefix (cfg : Config) (c : Byte) {s : State} (h : s.phase = .lenPrefix) :
    fpByteAt cfg c s = (s.quiet.prefixByte cfg c).respondStatus .ok := by simp [fpByteAt, h]

theorem fpByteAt_header (cfg : Config) (c : Byte) {s : State} (h : s.phase = .header) :
    fpByteAt cfg c s = (s.quiet.headerByte cfg c).respondStatus .ok := by simp [fpByteAt, h]

theorem fpByteAt_payload (cfg : Config) (c : Byte) {s : State} (h : s.phase = .payload) :
    fpByteAt cfg c s = (s.quiet.payloadByte cfg c).respondStatus .ok := by simp [fpByteAt, h]

theorem fpByteAt_trailer (cfg : Config) (c : Byte) {s : State} (h : s.phase = .trailer) :
    fpByteAt cfg c s = (s.quiet.trailerByte cfg c).respondStatus .ok := by simp [fpByteAt, h]

theorem fpByteAt_done (cfg : Config) (c : Byte) {s : State} (h : s.phase = .done) :
    fpByteAt cfg c s = s.quiet.surplusByte.respondStatus .ok := by simp [fpByteAt, h]

theorem fpByteAt_err (cfg : Config) (c : Byte) {s : State} (h : s.phase = .err) :
    fpByteAt cfg c s = s.quiet.respondStatus .ignored := by simp [fpByteAt, h]

/-- Everything `FP.END` can do (R150): truncate a frame in progress, or answer and leave every register. -/
theorem fpEndAt_cases (s : State) :
    ((s.phase = .lenPrefix ∨ s.phase = .header ∨ s.phase = .payload ∨ s.phase = .trailer) ∧
      fpEndAt s = (s.quiet.fail .truncatedFrame).respondStatus .ok) ∨
    (s.phase = .done ∧ fpEndAt s = s.quiet.respondStatus .ok) ∨
    ((s.phase = .idle ∨ s.phase = .err) ∧ fpEndAt s = s.quiet.respondStatus .ignored) := by
  cases h : s.phase <;> simp [fpEndAt, h]

end Sys2Proof.Machine
end

