-- ==== Sys2Proof/Laws/PerInstr.lean ====
section
/-! SUPPORT. Statements about every command as syntax, one lemma per constructor (LAWS.json names the families).

`Formed`: a command is well formed, and its row is a row of the opcode map (spec/30_encoding.md R82). `Fielded`: a command's opcode has
the format of its row, and the fields that format does not use are zero (R81). -/

namespace Sys2Proof.Laws.Formed

/-- A command is well formed and stands for a row of the table. -/
def Statement (i : Sys2Proof.Instr) : Prop := i.wf = true ∧ i.row ∈ Sys2Proof.opcodeTable

theorem crcInit : Statement .crcInit := ⟨by decide, by decide⟩
theorem crcUpd (c : Sys2Proof.Byte) : Statement (.crcUpd c) := ⟨rfl, by simp [Sys2Proof.opcodeTable, Sys2Proof.Instr.row]⟩
theorem crcGet : Statement .crcGet := ⟨by decide, by decide⟩
theorem fpStart : Statement .fpStart := ⟨by decide, by decide⟩
theorem fpByte (c : Sys2Proof.Byte) : Statement (.fpByte c) := ⟨rfl, by simp [Sys2Proof.opcodeTable, Sys2Proof.Instr.row]⟩
theorem fpEnd : Statement .fpEnd := ⟨by decide, by decide⟩
theorem pdDec (a b : Sys2Proof.Byte) : Statement (.pdDec a b) := ⟨rfl, by simp [Sys2Proof.opcodeTable, Sys2Proof.Instr.row]⟩
theorem pdVal (a b c : Sys2Proof.Byte) : Statement (.pdVal a b c) := ⟨rfl, by simp [Sys2Proof.opcodeTable, Sys2Proof.Instr.row]⟩
theorem rd (c : Sys2Proof.Byte) : Statement (.rd c) := ⟨rfl, by simp [Sys2Proof.opcodeTable, Sys2Proof.Instr.row]⟩

end Sys2Proof.Laws.Formed

namespace Sys2Proof.Laws.Fielded

/-- A command's opcode has its row's format, and its unused fields are zero. -/
def Statement (i : Sys2Proof.Instr) : Prop :=
  Sys2Proof.formatOf i.fields.op = some i.row.format ∧ i.fields.unusedZero i.row.format = true

theorem crcInit : Statement .crcInit := ⟨by decide, by decide⟩
theorem crcUpd (c : Sys2Proof.Byte) : Statement (.crcUpd c) := ⟨rfl, rfl⟩
theorem crcGet : Statement .crcGet := ⟨by decide, by decide⟩
theorem fpStart : Statement .fpStart := ⟨by decide, by decide⟩
theorem fpByte (c : Sys2Proof.Byte) : Statement (.fpByte c) := ⟨rfl, rfl⟩
theorem fpEnd : Statement .fpEnd := ⟨by decide, by decide⟩
theorem pdDec (a b : Sys2Proof.Byte) : Statement (.pdDec a b) := ⟨rfl, rfl⟩
theorem pdVal (a b c : Sys2Proof.Byte) : Statement (.pdVal a b c) := ⟨rfl, rfl⟩
theorem rd (c : Sys2Proof.Byte) : Statement (.rd c) := ⟨rfl, rfl⟩

end Sys2Proof.Laws.Fielded
end

