-- ==== Sys2Proof/Laws/Step.lean ====
section
/-! SUPPORT. Every command answers a next state, which `effect` names; runs of commands are folds of it; what a step can do. -/

namespace Sys2Proof.Machine

/-- The next state of a command. -/
def effect (i : Instr) (s : State) : State :=
  match i with
  | .crcInit => crcInitAt Config.spec s
  | .crcUpd c => crcUpdAt Config.spec c s
  | .crcGet => crcGetAt Config.spec s
  | .fpStart => fpStartAt Config.spec s
  | .fpByte c => fpByteAt Config.spec c s
  | .fpEnd => fpEndAt s
  | .pdDec a b => pdDecAt Config.spec a b s
  | .pdVal a b c => pdValAt Config.spec a b c s
  | .rd c => rdAt c s

/-- A command always answers a next state. -/
theorem exec_eq_next (i : Instr) (s : State) : exec i s = .next (effect i s) := by cases i <;> rfl

theorem exec_next {i : Instr} {s t : State} (h : exec i s = .next t) : t = effect i s := by
  rw [exec_eq_next] at h
  injection h with h
  exact h.symm

@[simp] theorem andThen_next {α β : Type} (a : α) (k : α → Host.Outcome β Fault Refusal) : andThen (.next a) k = k a := rfl

@[simp] theorem runInstrs_nil (s : State) : runInstrs [] s = .next s := rfl

theorem runInstrs_cons (i : Instr) (rest : List Instr) (s : State) : runInstrs (i :: rest) s = runInstrs rest (effect i s) := by
  simp [runInstrs, exec_eq_next]

/-- A run of commands is the fold of their effects, and ends in a next state. -/
theorem runInstrs_eq (is : List Instr) (s : State) : runInstrs is s = .next (is.foldl (fun t i => effect i t) s) := by
  induction is generalizing s with
  | nil => rfl
  | cons i rest ih => rw [runInstrs_cons, ih]; rfl

theorem runInstrs_append (is js : List Instr) (s : State) : runInstrs (is ++ js) s = andThen (runInstrs is s) (runInstrs js) := by
  simp [runInstrs_eq]

theorem outputs_cons (i : Instr) (rest : List Instr) (s : State) :
    outputs (i :: rest) s = ((effect i s).resp, (effect i s).pay) :: outputs rest (effect i s) := by
  simp [outputs, exec_eq_next]

/-- Reading registers one after another answers the value of each in the state the first one meets. -/
theorem responses_rd (cs : List Byte) (s : State) : responses (cs.map .rd) s = cs.map s.readRegister := by
  induction cs generalizing s with
  | nil => rfl
  | cons c rest ih =>
    rw [List.map_cons, responses, outputs_cons]
    exact congrArg (s.readRegister c :: ·) (ih (rdAt c s))

/-- Everything a step can do: wait, reset, refuse an illegal word, or run the command the word decodes to (R47, R189, R200). -/
theorem step_cases (s : State) :
    (s.port = [] ∧ step s = .next s) ∨
    (∃ rest, s.port = .reset :: rest ∧ step s = .next (({ s with port := rest } : State).takeReset Config.spec)) ∨
    (∃ w rest e, s.port = .command w :: rest ∧ decode w = .error e ∧ step s = .next ({ s with port := rest } : State).illegal) ∨
    (∃ w rest i, s.port = .command w :: rest ∧ decode w = .ok i ∧ step s = .next (effect i { s with port := rest })) := by
  unfold step State.takeInput
  split
  · rename_i h
    split at h
    · exact .inl ⟨by assumption, rfl⟩
    · cases h
  · rename_i t h
    split at h
    · cases h
    · rename_i x rest hp
      injection h with h
      injection h with hx ht
      subst hx ht
      exact .inr (.inl ⟨rest, hp, rfl⟩)
  · rename_i w t h
    split at h
    · cases h
    · rename_i x rest hp
      injection h with h
      injection h with hx ht
      subst hx ht
      right; right
      cases hd : decode w with
      | error e => exact .inl ⟨w, rest, e, hp, hd, rfl⟩
      | ok i => exact .inr ⟨w, rest, i, hp, hd, exec_eq_next i _⟩

/-- A step always answers a next state. -/
theorem step_next (s : State) : ∃ t, step s = .next t := by
  rcases step_cases s with ⟨-, h⟩ | ⟨_, -, h⟩ | ⟨_, _, _, -, -, h⟩ | ⟨_, _, _, -, -, h⟩ <;> exact ⟨_, h⟩

end Sys2Proof.Machine
end

