-- ==== Sys2Proof/Tests/Slice0.lean ====
section
/-! SUPPORT. Tests: the well-formedness smoke tests, words written out from spec/30_encoding.md, vectors of spec/95_test_vectors.md on
single steps, and for every statement with hypotheses a witness that meets them. Every expected value stands in the spec. -/

open Sys2Proof Sys2Proof.Machine

namespace Sys2Proof.Tests

/-! ### Small states -/

/-- The state a command leaves. -/
def after (i : Instr) (s : State) : State :=
  match exec i s with
  | .next t => t
  | .fault _ => s
  | .refused _ => s

/-- The response of a command, as its code and the number it carries. -/
def answer (i : Instr) (s : State) : Option (RespCode × Nat) := (after i s).resp.map (fun r => (r.code, r.data.toNat))

/-- A frame open, nothing received. -/
def opened : State := { State.reset with phase := .lenPrefix }

/-- In `HEADER`: `cnt` of `len` zero header bytes received. -/
def inHeader (len cnt : Byte) : State := { State.reset with phase := .header, hlen := len, hcnt := cnt }

/-- The header of V51 (52 zero bytes) but for its `Length`, whose last byte is `n`. -/
def headerOfLength (n : Byte) : Header := { Header.zero with length := n.setWidth 64 }

/-- In `PAYLOAD` of a frame with an all-zero header of `Length` `n`, nothing of the payload received. -/
def inPayload (n : Byte) : State :=
  { State.reset with
    phase := .payload, hlen := 52, hcnt := 52, hbuf := (Vector.replicate hdrMax 0).set 47 n, prem := n.setWidth 64,
    hdr := headerOfLength n }

/-- In `TRAILER` of the smallest valid frame (V80), `cnt` zero trailer bytes received. -/
def inTrailer (cnt : BitVec 3) : State := { State.reset with phase := .trailer, hlen := 52, hcnt := 52, tcnt := cnt }

/-- The smallest valid frame, `DONE` (V80). -/
def inDone : State := { State.reset with phase := .done, hlen := 52, hcnt := 52, tcnt := 4 }

/-- A frame failed with `DECODE_ERROR` by its prefix byte 0 (V67). -/
def failed : State := { State.reset with phase := .err, err := .decodeError }

/-- The reset state with one word at the port. -/
def withWord (w : Word) : State := State.reset.present w

/-! ### Well-formedness: a term that each check refuses (R81, R83) -/

theorem test_wf_unknown_opcode : (CommandWord.mk 0x04 0 0 0).wf = false := by decide
theorem test_wf_opcode_zero : (CommandWord.mk 0x00 0 0 0).wf = false := by decide
theorem test_wf_z_field_a : (CommandWord.mk 0x12 1 0 0).wf = false := by decide
theorem test_wf_z_field_b : (CommandWord.mk 0x03 0 1 0).wf = false := by decide
theorem test_wf_z_field_c : (CommandWord.mk 0x10 0 0 1).wf = false := by decide
theorem test_wf_b_field_a : (CommandWord.mk 0x02 1 0 0x31).wf = false := by decide
theorem test_wf_b_field_b : (CommandWord.mk 0x11 0 0x34 0).wf = false := by decide
theorem test_wf_p2_field_c : (CommandWord.mk 0x20 2 1 1).wf = false := by decide
theorem test_wf_p3_any : (CommandWord.mk 0x21 0xFF 0xFF 0xFF).wf = true := by decide
theorem test_wf_rd_of_no_register : (Instr.rd 0x08).wf = true := by decide

theorem test_config_spec_wf : Config.spec.wf = true := by decide +kernel
theorem test_config_wf_refuses_equal_offsets : ({ Config.spec with offFlags := 49 } : Config).wf = false := by decide
theorem test_config_wf_refuses_offset_out_of_the_four : ({ Config.spec with offFlags := 52 } : Config).wf = false := by decide
theorem test_config_wf_refuses_polynomials_that_differ : ({ Config.spec with crcPolyR := 0 } : Config).wf = false := by decide +kernel
theorem test_config_other_order_wf : ({ Config.spec with offFlags := 49, offMsgType := 48 } : Config).wf = true := by decide +kernel

/-! ### Decoding: each command's word from its encoding (R82, R85, 95_test_vectors.md) -/

theorem test_decode_crc_init : decode 0x01000000 = .ok .crcInit := by decide
theorem test_decode_crc_upd : decode 0x02000031 = .ok (.crcUpd 0x31) := by decide
theorem test_decode_crc_get : decode 0x03000000 = .ok .crcGet := by decide
theorem test_decode_fp_start : decode 0x10000000 = .ok .fpStart := by decide
theorem test_decode_fp_byte : decode 0x11000034 = .ok (.fpByte 0x34) := by decide
theorem test_decode_fp_end : decode 0x12000000 = .ok .fpEnd := by decide
theorem test_decode_pd_dec : decode 0x20020100 = .ok (.pdDec 2 1) := by decide
theorem test_decode_pd_val : decode 0x21070934 = .ok (.pdVal 7 9 52) := by decide
theorem test_decode_rd : decode 0x30000014 = .ok (.rd 0x14) := by decide
theorem test_encode_pd_val : encode (.pdVal 2 1 72) = 0x21020148 := by decide

theorem test_illegal_V28 : decode 0x01000001 = .error (.unusedFieldNotZero 0x01) := by decide
theorem test_illegal_V29 : decode 0x02010031 = .error (.unusedFieldNotZero 0x02) := by decide
theorem test_illegal_V39 : decode 0x20020101 = .error (.unusedFieldNotZero 0x20) := by decide
theorem test_illegal_V106 : decode 0x30010000 = .error (.unusedFieldNotZero 0x30) := by decide
theorem test_illegal_V120 : decode 0x00000000 = .error (.unknownOpcode 0x00) := by decide
theorem test_illegal_V121 : decode 0xFFFFFFFF = .error (.unknownOpcode 0xFF) := by decide
theorem test_illegal_V122 : decode 0x04000000 = .error (.unknownOpcode 0x04) := by decide
theorem test_illegal_V123 : decode 0x13000000 = .error (.unknownOpcode 0x13) := by decide
theorem test_illegal_V124 : decode 0x10000001 = .error (.unusedFieldNotZero 0x10) := by decide
theorem test_illegal_V125 : decode 0x11003400 = .error (.unusedFieldNotZero 0x11) := by decide
theorem test_illegal_V126 : decode 0x12010000 = .error (.unusedFieldNotZero 0x12) := by decide
theorem test_illegal_V127 : decode 0x03000100 = .error (.unusedFieldNotZero 0x03) := by decide

theorem test_table_word : decodeTableWord 32 0x21020148 = some (.pdVal 2 1 72) := by decide
theorem test_table_word_upper_bits_zero : decodeTableWord 8 0x21020148 = none := by decide
theorem test_table_word_too_wide : decodeTableWord 40 0x0121020148 = none := by decide

/-! ### The step and the port -/

theorem test_step_runs_first_word :
    (match step (State.reset.withFetchWord 32 0x02000031) with | .next t => t.crcAcc | _ => 0) = 0x7C231048 := by decide
theorem test_step_illegal_word :
    (match step (withWord 0x13000000) with | .next t => (t.resp, t.crcAcc, t.phase) | _ => (none, 0, .err)) =
      (some ⟨.illegal, 0⟩, 0xFFFFFFFF, .idle) := by decide
theorem test_step_reset_loses_a_frame :
    (match step { inTrailer 3 with port := [.reset] } with | .next t => (t.phase, t.err, t.hlen) | _ => (.err, .none, 1)) =
      (.idle, .none, 0) := by decide
theorem test_step_waits : (match step (inTrailer 3) with | .next t => t.phase | _ => .err) = .trailer := by decide

/-! ### The CRC (V2 to V7, R103) and its commands (V23 to V27) -/

theorem test_crc_step_V2 : crcStep Config.spec 0x00000000 0x01 = 0x77073096 := by decide
theorem test_crc_step_V4 : crcStep Config.spec 0x00000000 0xFF = 0x2D02EF8D := by decide
theorem test_crc_step_V5 : crcStep Config.spec 0xFFFFFFFF 0x00 = 0x2DFD1072 := by decide
theorem test_crc_table_128 : crcTableEntry Config.spec 128 = 0xEDB88320 := by decide
theorem test_crc32_empty_V8 : crc32 Config.spec [] = 0x00000000 := by decide
theorem test_crc32_hi_V13 : crc32 Config.spec [0x68, 0x69] = 0xD8932AAC := by decide +kernel
theorem test_crc32_check_value_V15 :
    crc32 Config.spec [0x31, 0x32, 0x33, 0x34, 0x35, 0x36, 0x37, 0x38, 0x39] = 0xCBF43926 := by decide +kernel

theorem test_crc_init_V24 : (after .crcInit { State.reset with crcAcc := 0x12345678 }).crcAcc = 0xFFFFFFFF := by decide
theorem test_crc_upd_V25 : (after (.crcUpd 0x31) State.reset).crcAcc = 0x7C231048 := by decide
theorem test_crc_upd_leaves_rx_crc_V92 : (after (.crcUpd 0x31) { inPayload 5 with rxCrc := 0x1234 }).rxCrc = 0x1234 := by decide
theorem test_crc_get_V23 : answer .crcGet State.reset = some (.ok, 0) := by decide
theorem test_crc_get_V27 : answer .crcGet { State.reset with crcAcc := 0xB0ACBB32 } = some (.ok, 0x4F5344CD) := by decide

/-! ### The presence commands (R125, V34, V36) and the header decoder (V45 to V51) -/

theorem test_pd_dec_broadcast_datagram : answer (.pdDec 2 1) State.reset = some (.ok, 0x348) := by decide
theorem test_pd_dec_unknown : answer (.pdDec 7 9) State.reset = some (.ok, 0x034) := by decide
theorem test_pd_val_V34 : answer (.pdVal 2 1 72) State.reset = some (.ok, 0x748) := by decide
theorem test_pd_val_V36 : answer (.pdVal 2 1 73) State.reset = some (.ok, 0x348) := by decide

theorem test_decode_header_V51 :
    decodeHeader Config.spec (List.replicate 52 0) = .ok ⟨Header.zero, false, false⟩ := by decide
theorem test_decode_header_V45 : decodeHeader Config.spec (List.replicate 51 0) = .error .decodeError := by decide
theorem test_decode_header_V46 : decodeHeader Config.spec (List.replicate 73 0) = .error .decodeError := by decide
theorem test_decode_header_V47 : decodeHeader Config.spec ((List.replicate 52 0).set 49 2) = .error .decodeError := by decide
theorem test_decode_header_V49 :
    decodeHeader Config.spec ((List.replicate 52 0).set 48 2) = .ok ⟨{ Header.zero with flags := 2 }, false, false⟩ := by decide
theorem test_parse_frame_V80 :
    parseFrame Config.spec (0x34 :: List.replicate 56 0) = .ok ⟨Header.zero, false, false, [], false⟩ := by decide
theorem test_parse_frame_V83 :
    parseFrame Config.spec (0x34 :: List.replicate 57 0) = .ok ⟨Header.zero, false, false, [], true⟩ := by decide
theorem test_parse_frame_V68 : parseFrame Config.spec [0x34] = .error .truncatedFrame := by decide
theorem test_parse_frame_V67 : parseFrame Config.spec [0x00] = .error .decodeError := by decide
theorem test_legacy_encoder_omits_a_zero_receiver :
    (match legacyEncodeHeader Config.spec (some { Header.zero with msgType := 2 }) 1 with | .ok hb => hb.length | .error _ => 0) = 52 := by
  decide
theorem test_encode_header_needs_a_header : encodeHeader Config.spec none 1 = .error .encodeError := by decide
theorem test_build_frame_too_large :
    buildFrame Config.spec .datagram 56 (some Header.zero) [] 1 = .error .frameTooLarge := by decide

/-! ### The frame parser (examples of R142 to R150; V85 to V91) -/

theorem test_fp_start_after_an_error : answer .fpStart { failed with err := .checksumMismatch } = some (.ok, 0x001) := by decide
theorem test_fp_start_abandons_a_frame_V90 :
    let t := after .fpStart (inPayload 5)
    (t.phase, t.err, t.hlen, t.prem, t.hdr) = (.lenPrefix, .none, 0, 0, Header.zero) := by decide
theorem test_fp_byte_prefix : answer (.fpByte 0x34) opened = some (.ok, 0x002) := by decide
theorem test_fp_byte_prefix_zero_V67 : answer (.fpByte 0x00) opened = some (.ok, 0x016) := by decide
theorem test_fp_byte_header_stores :
    (after (.fpByte 0x01) (inHeader 52 49)).hbuf[49] = 1 ∧ (after (.fpByte 0x01) (inHeader 52 49)).hcnt = 50 := by decide
theorem test_fp_byte_header_completes :
    answer (.fpByte 0) { inHeader 52 51 with hbuf := ((Vector.replicate hdrMax 0).set 47 21).set 49 1 } = some (.ok, 0x003) := by decide
theorem test_fp_byte_header_refuses_V74 :
    answer (.fpByte 0) { inHeader 52 51 with hbuf := ((Vector.replicate hdrMax 0).set 47 21).set 49 2 } = some (.ok, 0x016) := by decide
theorem test_fp_byte_header_past_72_is_counted_not_stored :
    let t := after (.fpByte 9) (inHeader 255 72)
    t.hcnt = 73 ∧ t.hbuf = Vector.replicate hdrMax 0 := by decide
theorem test_fp_byte_payload_last :
    let t := after (.fpByte 0x31) (inPayload 1)
    (t.rxCrc, t.prem, t.phase, t.pay) = (0x7C231048, 0, .trailer, some 0x31) := by decide
theorem test_fp_byte_trailer_matches :
    (after (.fpByte 0xB7) { inTrailer 3 with rxCrc := 0x7C231048, trailer := 0x0083DCEF }).phase = .done := by decide
theorem test_fp_byte_trailer_differs :
    answer (.fpByte 0xB6) { inTrailer 3 with rxCrc := 0x7C231048, trailer := 0x0083DCEF } = some (.ok, 0x01E) := by decide
theorem test_fp_byte_done_surplus : answer (.fpByte 0x00) inDone = some (.ok, 0x105) := by decide
theorem test_fp_byte_ignored_V85 : answer (.fpByte 0x34) State.reset = some (.ignored, 0x000) := by decide
theorem test_fp_byte_ignored_V87 : answer (.fpByte 0x41) failed = some (.ignored, 0x016) := by decide
theorem test_fp_end_header : answer .fpEnd (inHeader 52 51) = some (.ok, 0x00E) := by decide
theorem test_fp_end_done_V89 : answer .fpEnd inDone = some (.ok, 0x005) := by decide

/-! ### RD (V100 to V110) at the edges of each range of numbers -/

theorem test_rd_status_V100 : answer (.rd 0x00) State.reset = some (.ok, 0) := by decide
theorem test_rd_crc_acc_V101 : answer (.rd 0x07) State.reset = some (.ok, 0xFFFFFFFF) := by decide
theorem test_rd_no_register_V104 : answer (.rd 0x08) State.reset = some (.illegal, 0) := by decide
theorem test_rd_no_register_0F : answer (.rd 0x0F) inDone = some (.illegal, 0) := by decide
theorem test_rd_no_register_V105 : answer (.rd 0x1A) inDone = some (.illegal, 0) := by decide
theorem test_rd_no_register_FF : answer (.rd 0xFF) inDone = some (.illegal, 0) := by decide
theorem test_rd_gated_id : answer (.rd 0x10) (inTrailer 3) = some (.notValid, 0) := by decide
theorem test_rd_gated_protocol : answer (.rd 0x19) failed = some (.notValid, 0) := by decide
theorem test_rd_length_in_done : answer (.rd 0x14) { inDone with hdr := headerOfLength 21 } = some (.ok, 0x15) := by decide
theorem test_rd_prem_V107 : answer (.rd 0x03) (inPayload 21) = some (.ok, 21) := by decide
theorem test_rd_length_V108 : answer (.rd 0x14) (inPayload 21) = some (.notValid, 0) := by decide

/-! ### The assembler (examples of R85, R86) -/

theorem test_asm_crc_upd : assembleLine Config.spec "CRC.UPD 0x31" = some [.crcUpd 0x31] := by decide
theorem test_asm_fp_byte : assembleLine Config.spec "FP.BYTE 52 ; the prefix" = some [.fpByte 52] := by decide
theorem test_asm_pd_dec : assembleLine Config.spec "PD.DEC MT_BROADCAST, PROTO_DATAGRAM" = some [.pdDec 2 1] := by decide
theorem test_asm_pd_val : assembleLine Config.spec "PD.VAL 2, 1, 72" = some [.pdVal 2 1 72] := by decide
theorem test_asm_rd : assembleLine Config.spec "RD LENGTH" = some [.rd 0x14] := by decide
theorem test_asm_char : assembleLine Config.spec "CRC.UPD '1'" = some [.crcUpd 0x31] := by decide
theorem test_asm_number_too_large : assembleLine Config.spec "FP.BYTE 256" = none := by decide
theorem test_asm_crc_buf : assembleLine Config.spec "CRC.BUF 1, 0b10" = some [.crcInit, .crcUpd 1, .crcUpd 2, .crcGet] := by decide

/-! ### States that meet the invariant of 10_state.md R31, one in each phase -/

theorem test_inv_opened : ParserInv opened := by
  refine ⟨?_, by decide, by decide⟩
  show State.parserCleared opened
  unfold State.parserCleared
  decide

theorem test_inv_header : ParserInv (inHeader 52 51) := by
  refine ⟨?_, by decide, by decide⟩
  show _ = _ ∧ _ ∧ State.frameUntouched (inHeader 52 51)
  unfold State.frameUntouched
  decide

theorem test_inv_bad_header : ParserInv (inHeader 51 50) := by
  refine ⟨?_, by decide, by decide⟩
  show _ = _ ∧ _ ∧ State.frameUntouched (inHeader 51 50)
  unfold State.frameUntouched
  decide

theorem test_inv_payload : ParserInv (inPayload 1) := by
  refine ⟨?_, by decide, by decide⟩
  show _ ∧ State.frameDecoded (inPayload 1) ∧ _
  unfold State.frameDecoded
  decide

theorem test_inv_trailer : ParserInv (inTrailer 3) := by
  refine ⟨?_, by decide, by decide⟩
  show _ ∧ State.frameDecoded (inTrailer 3) ∧ _
  unfold State.frameDecoded
  decide

theorem test_inv_done : ParserInv inDone := by
  refine ⟨?_, by decide, by decide⟩
  show _ ∧ State.frameDecoded inDone ∧ _
  unfold State.frameDecoded
  decide

/-! ### Witnesses: for each statement with hypotheses, data that meet them all -/

theorem witness_EncodeOfDecodeIsTheWord : decode 0x21020148 = .ok (.pdVal 2 1 72) := by decide
theorem witness_WordIsCommand_covers : Instr.fpStart.row ∈ opcodeTable ∧ (0x10000000 : Word) &&& Instr.fpStart.row.maskBits = Instr.fpStart.row.matchBits := by
  decide
theorem witness_IllegalWords_opcode_00 :
    (0x00000000 : Word).extractLsb' 24 8 ∉ [0x01#8, 0x02#8, 0x03#8, 0x10#8, 0x11#8, 0x12#8, 0x20#8, 0x21#8, 0x30#8] := by decide
theorem witness_IllegalWords_z : (0x12010000 : Word).extractLsb' 24 8 ∈ [0x01#8, 0x03#8, 0x10#8, 0x12#8] ∧ (0x12010000 : Word).extractLsb' 0 24 ≠ 0 := by
  decide
theorem witness_IllegalWords_b : (0x30000100 : Word).extractLsb' 24 8 ∈ [0x02#8, 0x11#8, 0x30#8] ∧ (0x30000100 : Word).extractLsb' 8 16 ≠ 0 := by decide
theorem witness_IllegalWords_p2 : (0x20020101 : Word).extractLsb' 24 8 = 0x20#8 ∧ (0x20020101 : Word).extractLsb' 0 8 ≠ 0 := by decide
theorem witness_IllegalWords_no_register : 0x08 ≤ (0x08 : Byte).toNat ∧ (0x0F : Byte).toNat ≤ 0x0F ∧ 0x1A ≤ (0x1A : Byte).toNat := by decide
theorem witness_StepRunsTheDecodedCommand : (withWord 0x02000031).port = [.command 0x02000031] ∧ decode 0x02000031 = .ok (.crcUpd 0x31) := by
  decide
theorem witness_IllegalWordLeavesNoTrace : (withWord 0).port = [.command 0] ∧ ∀ i, decode 0 ≠ .ok i := by
  refine ⟨by decide, fun i h => ?_⟩
  rw [show decode 0 = .error (.unknownOpcode 0) by decide] at h
  cases h
theorem witness_ResetLeaves_reset : ({ inPayload 5 with port := [.reset] } : State).port = .reset :: [] := by decide
theorem witness_ResetLeaves_waiting : (inPayload 5).port = [] := by decide
theorem witness_IllegalIsAnswered_both : legalWord 0x30000007 = true ∧ legalWord 0x30000008 = false ∧ legalWord 0x13000000 = false := by decide
theorem witness_ChecksumSequence : ∀ i ∈ [Instr.crcUpd 0x31, .fpStart, .crcGet, .rd 7], i ≠ .crcInit := by decide
theorem witness_ShortBurst :
    Config.spec.crcRefIn = true ∧ Config.spec.crcPolyR.getLsbD 31 = true ∧ ([0x80, 0, 0, 0, 0] : List Byte).length = 5 ∧
    ([0x80, 0, 0, 0, 0] : List Byte) ≠ [0, 0, 0, 0, 0x40] ∧
    ∀ i, i < 7 ∨ 7 + 32 ≤ i → streamBit [0x80, 0, 0, 0, 0] i = streamBit [0, 0, 0, 0, 0x40] i := by
  refine ⟨by decide, by decide, by decide, by decide, fun i hi => ?_⟩
  by_cases h : i < 40
  · revert hi
    revert i
    decide
  · have h' : 5 ≤ i / 8 := by omega
    have out : ∀ s : List Byte, s.length = 5 → byteAt s (i / 8) = 0 := fun s hs => by
      simp [byteAt, List.getD_eq_getElem?_getD, List.getElem?_eq_none (hs ▸ h' : s.length ≤ i / 8)]
    simp [streamBit, out]
theorem witness_CodeOfZeroBytes : 1 ≤ 1 := by decide
theorem witness_Presence_rows :
    (1 : Byte) ≠ Config.spec.mtBroadcast ∧ (3 : Byte) ≠ Config.spec.mtBroadcast ∧ (2 : Byte) = Config.spec.mtBroadcast ∧
    (0 : Byte) ≠ Config.spec.protoDatagram ∧ (2 : Byte) ≠ Config.spec.protoDatagram ∧ (1 : Byte) = Config.spec.protoDatagram := by decide
theorem witness_PdVal_header : (List.replicate 52 (0 : Byte)).length = (52 : Byte).toNat ∧ byteAt (List.replicate 52 0) 49 = 0 ∧
    byteAt (List.replicate 52 0) 51 = 0 := by decide
theorem witness_DecodeHeader_refused : (List.replicate 51 (0 : Byte)).length < 52 ∧ 72 < (List.replicate 73 (0 : Byte)).length ∧
    (List.replicate 53 (0 : Byte)).length ≠ 52 := by decide
theorem witness_DecodeHeader_72 :
    let hb : List Byte := ((List.replicate 72 0).set 49 2).set 51 1
    52 ≤ hb.length ∧ hb.length ≤ 72 ∧ hb.length = 52 + (if byteAt hb 49 = 2 then 16 else 0) + (if byteAt hb 51 = 1 then 4 else 0) := by
  decide
theorem witness_OnlyFourHeaderLengths : decodeHeader Config.spec (List.replicate 52 0) = .ok ⟨Header.zero, false, false⟩ := by decide
theorem witness_LegacyBroadcast :
    let h : Header := { Header.zero with msgType := 2 }
    h.msgType = Config.spec.mtBroadcast ∧ h.receiver = 0 ∧ ∃ hb, legacyEncodeHeader Config.spec (some h) 1 = .ok hb := by
  exact ⟨by decide, by decide, _, rfl⟩
theorem witness_LegacyBroadcast_otherwise :
    ¬(({ Header.zero with msgType := 2, receiver := 1 } : Header).msgType = Config.spec.mtBroadcast ∧
      ({ Header.zero with msgType := 2, receiver := 1 } : Header).receiver = 0) := by decide
theorem witness_ParseFrameOfBuildFrame :
    Config.spec.wf = true ∧ ([] : List Byte).length < 2 ^ 64 ∧
    ∃ frame, buildFrame Config.spec .stream 0 (some Header.zero) [] 1 = .ok frame := by
  exact ⟨test_config_spec_wf, by decide, _, rfl⟩
theorem witness_DatagramFrame :
    ∃ frame, buildFrame Config.spec .datagram 1000 (some (datagramStamp Config.spec 5 7 Header.zero).1) [] 1 = .ok frame := by
  refine ⟨layFrame Config.spec (fixedHeader Config.spec (fillTimestamp 1 (datagramStamp Config.spec 5 7 Header.zero).1) ++ [0, 0, 0, 7]) [], ?_⟩
  decide
theorem witness_FpByteInPrefix : opened.phase = .lenPrefix ∧ (1 : Byte) ≠ 0 ∧ (0 : Byte) = 0 := by decide
theorem witness_FpByteInHeader_more : (inHeader 52 50).phase = .header ∧ (inHeader 52 50).hcnt + 1#8 ≠ (inHeader 52 50).hlen := by decide
theorem witness_FpByteInHeader_decodes :
    (inHeader 52 51).hcnt + 1#8 = (inHeader 52 51).hlen ∧ 52 ≤ (inHeader 52 51).hlen.toNat ∧ (inHeader 52 51).hlen.toNat ≤ 72 ∧
    decodeHeader Config.spec ((inHeader 52 51).hbuf.toList.take (inHeader 52 51).hlen.toNat) = .ok ⟨Header.zero, false, false⟩ := by decide
theorem witness_FpByteInHeader_fails : (inHeader 51 50).hcnt + 1#8 = (inHeader 51 50).hlen ∧ (inHeader 51 50).hlen.toNat < 52 ∧
    (inHeader 73 72).hcnt + 1#8 = (inHeader 73 72).hlen ∧ 72 < (inHeader 73 72).hlen.toNat ∧
    decodeHeader Config.spec ((inHeader 53 52).hbuf.toList.take (inHeader 53 52).hlen.toNat) = .error .decodeError := by decide
theorem witness_FpByteInPayload : (inPayload 1).phase = .payload ∧ (inPayload 1).prem = 1 ∧ (inPayload 2).prem ≠ 1 := by decide
theorem witness_FpByteInTrailer : (inTrailer 0).phase = .trailer ∧ (inTrailer 0).tcnt ≠ 3 ∧ (inTrailer 3).tcnt = 3 ∧
    ((inTrailer 3).trailer <<< 8) ||| (0 : Byte).setWidth 32 = (inTrailer 3).rxCrc ^^^ 0xFFFFFFFF ∧
    ((inTrailer 3).trailer <<< 8) ||| (1 : Byte).setWidth 32 ≠ (inTrailer 3).rxCrc ^^^ 0xFFFFFFFF := by decide
theorem witness_TrailerIsAssembled : (inTrailer 0).phase = .trailer ∧ (inTrailer 0).tcnt = 0 ∧ (inTrailer 0).trailer = 0 := by decide
theorem witness_FpByteInDone : inDone.phase = .done := by decide
theorem witness_FpByteIgnored : State.reset.phase = .idle ∧ failed.phase = .err := by decide
theorem witness_FpEnd : opened.phase = .lenPrefix ∧ (inHeader 52 0).phase = .header ∧ (inPayload 1).phase = .payload ∧
    (inTrailer 0).phase = .trailer ∧ inDone.phase = .done ∧ State.reset.phase = .idle ∧ failed.phase = .err := by decide
theorem witness_PhaseChanges : (inHeader 52 50).hcnt.toNat + 1 < (inHeader 52 50).hlen.toNat ∧
    (inHeader 52 51).hcnt.toNat + 1 = (inHeader 52 51).hlen.toNat ∧ 2 ≤ (inPayload 2).prem.toNat ∧ (inPayload 1).prem = 1#64 ∧
    (inTrailer 2).tcnt.toNat ≤ 2 ∧ (inTrailer 3).tcnt = 3#3 ∧ (inTrailer 3).inProgress = true := by decide
theorem witness_FinishedFrame : Instr.fpStart ∉ [Instr.fpByte 1, .fpEnd, .crcInit] ∧ failed.phase = .err ∧ inDone.phase = .done := by decide
theorem witness_AcceptedByte : ParserInv opened ∧ opened.inProgress = true ∧ exec (.fpByte 52) opened = .next (after (.fpByte 52) opened) ∧
    (after (.fpByte 52) opened).phase ≠ .err := ⟨test_inv_opened, by decide, rfl, by decide⟩
theorem witness_FailurePlace_decode : ParserInv (inHeader 51 50) ∧ (inHeader 51 50).phase ≠ .err ∧
    (after (.fpByte 0) (inHeader 51 50)).phase = .err ∧ (after (.fpByte 0) (inHeader 51 50)).err = .decodeError :=
  ⟨test_inv_bad_header, by decide, by decide, by decide⟩
theorem witness_FailurePlace_checksum : ParserInv (inTrailer 3) ∧ (inTrailer 3).phase ≠ .err ∧
    (after (.fpByte 1) (inTrailer 3)).phase = .err ∧ (after (.fpByte 1) (inTrailer 3)).err = .checksumMismatch :=
  ⟨test_inv_trailer, by decide, by decide, by decide⟩
theorem witness_FailurePlace_truncated : ParserInv (inPayload 1) ∧ (inPayload 1).phase ≠ .err ∧ (after .fpEnd (inPayload 1)).phase = .err ∧
    (after .fpEnd (inPayload 1)).err = .truncatedFrame := ⟨test_inv_payload, by decide, by decide, by decide⟩
theorem witness_RegistersAreWritten : Instr.fpEnd ≠ .crcInit ∧ (∀ c, Instr.fpEnd ≠ .crcUpd c) ∧ isParserCommand (.rd 0) = false := by
  exact ⟨by decide, fun _ => Instr.noConfusion, by decide⟩
theorem witness_ReaderAndWriter : isCrcCommand (.crcUpd 1) = true ∧ isParserCommand (.fpByte 1) = true := by decide
theorem witness_StepKeepsTheInvariant : ParserInv inDone := test_inv_done
theorem witness_ReachableStates :
    Reachable (after .fpEnd (after .fpStart State.reset)) ∧ (after .fpEnd (after .fpStart State.reset)).phase = .err ∧
    isCrcCommand (.fpByte 1) = false ∧ exec (.fpByte 1) opened = .next (after (.fpByte 1) opened) :=
  ⟨⟨[.command 0x10000000, .command 0x12000000], 2, rfl⟩, by decide, rfl, rfl⟩
/-- The state `k` steps on. -/
def stepped : Nat → State → State
  | 0, s => s
  | k + 1, s =>
    match step s with
    | .next t => stepped k t
    | .fault _ => s
    | .refused _ => s
theorem runSteps_stepped (k : Nat) (s : State) : runSteps k s = .next (stepped k s) := by
  induction k generalizing s with
  | zero => rfl
  | succ k ih =>
    obtain ⟨_, h⟩ | ⟨_, _, h⟩ | ⟨_, _, _, _, _, h⟩ | ⟨_, _, _, _, _, h⟩ := step_cases s <;> simp [runSteps, stepped, h, ih]
/-- The smallest valid frame (V80), fed after reset: a reachable state in `DONE`. -/
theorem witness_DoneMeansTheTrailerMatched : Reachable { inDone with resp := some ⟨.ok, 0x005⟩ } ∧ inDone.phase = .done :=
  ⟨⟨.command 0x10000000 :: .command 0x11000034 :: List.replicate 56 (.command 0x11000000), 58,
    (runSteps_stepped _ _).trans (congrArg _ (by decide +kernel))⟩, rfl⟩
theorem witness_Verdict_checksum :
    parseFrame Config.spec (0x34 :: (List.replicate 55 0 ++ [1])) = .error .checksumMismatch := by decide
theorem witness_Verdict_decode_and_done : parseFrame Config.spec [0x00] = .error .decodeError ∧
    parseFrame Config.spec (0x34 :: List.replicate 56 0) = .ok ⟨Header.zero, false, false, [], false⟩ := by decide
theorem witness_GeneratorPattern : 0 + 33 ≤ 8 * ([0, 0, 0, 0, 0] : List Byte).length ∧ 7 + 33 ≤ 8 * ([0, 0, 0, 0, 0] : List Byte).length := by
  decide
theorem witness_OneStart : State.reset.surplus = false ∧ obeys startBeforeNextFrame [.fpStart, .fpByte 0x34, .fpEnd] State.reset = true := by
  decide
theorem witness_ChangedPayloadByte :
    parseFrame Config.spec (0x34 :: ((List.replicate 52 0).set 47 1 ++ [0x31, 0x83, 0xDC, 0xEF, 0xB7])) =
      .ok ⟨headerOfLength 1, false, false, [0x31], false⟩ ∧
    (0x30 : Byte) ≠ byteAt (0x34 :: ((List.replicate 52 0).set 47 1 ++ [0x31, 0x83, 0xDC, 0xEF, 0xB7])) (1 + 52 + 0) := by decide
theorem witness_ChangedHeaderByte :
    parseFrame Config.spec (0x34 :: List.replicate 56 0) = .ok ⟨Header.zero, false, false, [], false⟩ ∧
    49 < (byteAt (0x34 :: List.replicate 56 0) 0).toNat ∧ (49 < 40 ∨ 48 ≤ 49) ∧ isBroadcast Config.spec 3 = false := by decide
theorem witness_ChangedHeaderByte_edges :
    39 < (byteAt (0x34 :: List.replicate 56 0) 0).toNat ∧ (39 < 40 ∨ 48 ≤ 39) ∧
    48 < (byteAt (0x34 :: List.replicate 56 0) 0).toNat ∧ (48 < 40 ∨ 48 ≤ 48) ∧
    51 < (byteAt (0x34 :: List.replicate 56 0) 0).toNat ∧ (51 < 40 ∨ 48 ≤ 51) ∧ isDatagram Config.spec 2 = false := by decide
theorem witness_CutFrame :
    parseFrame Config.spec (0x34 :: List.replicate 56 0) = .ok ⟨Header.zero, false, false, [], false⟩ ∧
    56 < 1 + (byteAt (0x34 :: List.replicate 56 0) 0).toNat + Header.zero.length.toNat + 4 := by decide

end Sys2Proof.Tests
end

section
/-! Proofs: what one command does to `TRAILER`, `pay`, `PAYLOAD` and the response (10_state.md R19, R22, R26, R27). -/

namespace Sys2Proof.Machine

/-! ### `TRAILER` is a big-endian shift register (R19, R148) -/

/-- Shifting a byte in drops the highest byte. -/
theorem shiftLeft_or_setWidth_eq_append {n : Nat} (x : BitVec (n + 8)) (c : Byte) :
    (x <<< 8) ||| c.setWidth (n + 8) = x.setWidth n ++ c := by
  ext i hi
  by_cases h : i < 8
  · simp [BitVec.getElem_append, h]
  · have hc : c.getLsbD i = false := BitVec.getLsbD_of_ge c i (by omega)
    have hx : x.getLsbD (i - 8) = x[i - 8] := BitVec.getLsbD_eq_getElem (by omega)
    simp [BitVec.getElem_append, h, hc, hx]

/-- Dropping the highest byte of a word keeps its lowest byte in place. -/
theorem setWidth_append_byte {n : Nat} (x : BitVec (n + 8)) (c : Byte) :
    (x ++ c).setWidth (n + 8) = x.setWidth n ++ c := by
  simp [BitVec.setWidth_append_of_eq]

/-- Every trailer byte is shifted in and counted, the fourth one too; before the fourth the phase stays (R148). -/
theorem State.trailerByte_registers (cfg : Config) (c : Byte) (s : State) :
    (s.trailerByte cfg c).trailer = s.trailer.setWidth 24 ++ c ∧ (s.trailerByte cfg c).tcnt = s.tcnt + 1#3 ∧
    (s.tcnt ≠ 3#3 → (s.trailerByte cfg c).phase = s.phase) := by
  rw [← shiftLeft_or_setWidth_eq_append]
  by_cases h : s.tcnt = 3#3
  · have htcnt : s.tcnt + 1#3 = 4#3 := (tcnt_add_one_eq_four _).2 h
    rw [State.trailerByte_of_eq cfg c s h, htcnt]
    split
    · exact ⟨rfl, rfl, fun hne => absurd h hne⟩
    · exact ⟨rfl, rfl, fun hne => absurd h hne⟩
  · rw [State.trailerByte_of_ne cfg c s h]
    exact ⟨rfl, rfl, fun _ => rfl⟩

/-- `FP.BYTE` in `TRAILER`, from a count `n` and a word `w`. -/
theorem effect_fpByte_trailer (c : Byte) {s : State} {n : BitVec 3} {w : Word} (hphase : s.phase = .trailer) (hn : s.tcnt = n)
    (hw : s.trailer = w) :
    (effect (.fpByte c) s).trailer = w.setWidth 24 ++ c ∧ (effect (.fpByte c) s).tcnt = n + 1#3 ∧
    (n ≠ 3#3 → (effect (.fpByte c) s).phase = .trailer) := by
  subst hn hw
  rw [effect, fpByteAt_trailer _ _ hphase, ← hphase]
  exact State.trailerByte_registers Config.spec c s.quiet

/-- The low 24 bits of a word that holds one, two or three bytes: a zero byte fewer above them. -/
theorem setWidth_pad_append (a b c : Byte) :
    (0#24 ++ a).setWidth 24 = 0#16 ++ a ∧ (0#16 ++ a ++ b).setWidth 24 = 0#8 ++ a ++ b ∧
    (0#8 ++ a ++ b ++ c).setWidth 24 = a ++ b ++ c := by
  refine ⟨setWidth_append_byte 0#24 a, ?_, ?_⟩
  · calc (0#16 ++ a ++ b).setWidth 24
      _ = (0#16 ++ a).setWidth 16 ++ b := setWidth_append_byte (0#16 ++ a) b
      _ = 0#8 ++ a ++ b := congrArg (· ++ b) (setWidth_append_byte 0#16 a)
  · calc (0#8 ++ a ++ b ++ c).setWidth 24
      _ = (0#8 ++ a ++ b).setWidth 16 ++ c := setWidth_append_byte (0#8 ++ a ++ b) c
      _ = (0#8 ++ a).setWidth 8 ++ b ++ c := congrArg (· ++ c) (setWidth_append_byte (0#8 ++ a) b)
      _ = a ++ b ++ c := congrArg (· ++ b ++ c) BitVec.setWidth_append_eq_right

/-- Settles O34: one step lemma, applied to each of the four bytes. -/
theorem trailerIsAssembledBigEndian : Obligations.TrailerIsAssembledBigEndian := by
  unfold Obligations.TrailerIsAssembledBigEndian
  intro s a b c d hphase htcnt htrailer
  obtain ⟨pad₁, pad₂, pad₃⟩ := setWidth_pad_append a b c
  obtain ⟨word₁, count₁, phase₁⟩ := effect_fpByte_trailer a hphase htcnt htrailer
  obtain ⟨word₂, count₂, phase₂⟩ := effect_fpByte_trailer b (phase₁ (by decide)) count₁ (w := 0#24 ++ a) word₁
  rw [pad₁] at word₂
  obtain ⟨word₃, count₃, phase₃⟩ := effect_fpByte_trailer c (phase₂ (by decide)) count₂ word₂
  rw [pad₂] at word₃
  obtain ⟨word₄, count₄, -⟩ := effect_fpByte_trailer d (phase₃ (by decide)) count₃ word₃
  rw [pad₃] at word₄
  exact ⟨_, _, _, _, rfl, word₁, count₁, rfl, word₂, count₂, rfl, word₃, count₃, rfl, word₄, count₄⟩

/-! ### `pay` and `PAYLOAD` (R26, R27) -/

/-- The byte that gives the header length touches neither. -/
theorem State.prefixByte_pay_payload (cfg : Config) (c : Byte) (s : State) :
    (s.prefixByte cfg c).pay = s.pay ∧ (s.prefixByte cfg c).payload = s.payload := by
  rw [State.prefixByte_eq]
  split
  · exact ⟨rfl, rfl⟩
  · exact ⟨rfl, rfl⟩

/-- A header byte touches neither, header completion included. -/
theorem State.headerByte_pay_payload (cfg : Config) (c : Byte) (s : State) :
    (s.headerByte cfg c).pay = s.pay ∧ (s.headerByte cfg c).payload = s.payload := by
  by_cases h : s.hcnt + 1#8 = s.hlen
  · rw [State.headerByte_of_eq cfg c s h]
    obtain ⟨-, -, -, -, -, -, -, -, hpayload, -, hpay, -⟩ := State.headerComplete_frame cfg
      { s with hbuf := s.hbuf.setIfInBounds s.hcnt.toNat c, hcnt := s.hcnt + 1#8 }
    exact ⟨hpay, hpayload⟩
  · rw [State.headerByte_of_lt cfg c s h]
    exact ⟨rfl, rfl⟩

/-- A trailer byte touches neither. -/
theorem State.trailerByte_pay_payload (cfg : Config) (c : Byte) (s : State) :
    (s.trailerByte cfg c).pay = s.pay ∧ (s.trailerByte cfg c).payload = s.payload := by
  by_cases h : s.tcnt = 3#3
  · rw [State.trailerByte_of_eq cfg c s h]
    split
    · exact ⟨rfl, rfl⟩
    · exact ⟨rfl, rfl⟩
  · rw [State.trailerByte_of_ne cfg c s h]
    exact ⟨rfl, rfl⟩

/-- `FP.BYTE` in `PAYLOAD` puts its byte on `pay` and at the end of `PAYLOAD` (R147). -/
theorem fpByteAt_pay_payload_of_payload (cfg : Config) (c : Byte) {s : State} (h : s.phase = .payload) :
    (fpByteAt cfg c s).pay = some c ∧ (fpByteAt cfg c s).payload = s.payload ++ [c] := by
  rw [fpByteAt_payload cfg c h, State.payloadByte_eq]
  exact ⟨rfl, rfl⟩

/-- `FP.BYTE` in any other phase leaves `pay` empty and `PAYLOAD` as it was. -/
theorem fpByteAt_pay_payload_of_ne (cfg : Config) (c : Byte) {s : State} (h : s.phase ≠ .payload) :
    (fpByteAt cfg c s).pay = none ∧ (fpByteAt cfg c s).payload = s.payload := by
  cases hp : s.phase with
  | idle => rw [fpByteAt_idle cfg c hp]; exact ⟨rfl, rfl⟩
  | lenPrefix => rw [fpByteAt_lenPrefix cfg c hp]; exact State.prefixByte_pay_payload cfg c s.quiet
  | header => rw [fpByteAt_header cfg c hp]; exact State.headerByte_pay_payload cfg c s.quiet
  | payload => exact absurd hp h
  | trailer => rw [fpByteAt_trailer cfg c hp]; exact State.trailerByte_pay_payload cfg c s.quiet
  | done => rw [fpByteAt_done cfg c hp]; exact ⟨rfl, rfl⟩
  | err => rw [fpByteAt_err cfg c hp]; exact ⟨rfl, rfl⟩

/-- `FP.END` leaves `pay` empty and `PAYLOAD` as it was, in every phase (R150). -/
theorem fpEndAt_pay_payload (s : State) : (fpEndAt s).pay = none ∧ (fpEndAt s).payload = s.payload := by
  obtain ⟨-, h⟩ | ⟨-, h⟩ | ⟨-, h⟩ := fpEndAt_cases s
  · rw [h]; exact ⟨rfl, rfl⟩
  · rw [h]; exact ⟨rfl, rfl⟩
  · rw [h]; exact ⟨rfl, rfl⟩

/-- A command has a byte on `pay` exactly when it is an `FP.BYTE` accepted in `PAYLOAD`, and the byte is its operand (R27). -/
theorem effect_pay_eq_some_iff (i : Instr) (s : State) (b : Byte) :
    (effect i s).pay = some b ↔ i = .fpByte b ∧ s.phase = .payload := by
  cases i with
  | fpByte c =>
    by_cases h : s.phase = .payload
    · simp [effect, (fpByteAt_pay_payload_of_payload Config.spec c h).1, h]
    · simp [effect, (fpByteAt_pay_payload_of_ne Config.spec c h).1, h]
  | fpEnd => simp [effect, (fpEndAt_pay_payload s).1]
  | crcInit => simp [effect, crcInitAt]
  | crcUpd c => simp [effect, crcUpdAt]
  | crcGet => simp [effect, crcGetAt]
  | fpStart => simp [effect, fpStartAt]
  | pdDec a b => simp [effect, pdDecAt]
  | pdVal a b c => simp [effect, pdValAt]
  | rd c => simp [effect, rdAt]

/-- Any command but `FP.START` appends to `PAYLOAD` what it puts on `pay`, nothing where `pay` is empty. -/
theorem effect_payload_of_ne_fpStart {i : Instr} (hi : i ≠ .fpStart) (s : State) :
    (effect i s).payload = s.payload ++ (effect i s).pay.toList := by
  cases i with
  | fpStart => exact absurd rfl hi
  | fpByte c =>
    by_cases h : s.phase = .payload
    · obtain ⟨hpay, hpayload⟩ := fpByteAt_pay_payload_of_payload Config.spec c h
      simp [effect, hpay, hpayload]
    · obtain ⟨hpay, hpayload⟩ := fpByteAt_pay_payload_of_ne Config.spec c h
      simp [effect, hpay, hpayload]
  | fpEnd =>
    obtain ⟨hpay, hpayload⟩ := fpEndAt_pay_payload s
    simp [effect, hpay, hpayload]
  | crcInit => exact (List.append_nil _).symm
  | crcUpd c => exact (List.append_nil _).symm
  | crcGet => exact (List.append_nil _).symm
  | pdDec a b => exact (List.append_nil _).symm
  | pdVal a b c => exact (List.append_nil _).symm
  | rd c => exact (List.append_nil _).symm

theorem payBytes_cons (i : Instr) (prog : List Instr) (s : State) :
    payBytes (i :: prog) s = (effect i s).pay.toList ++ payBytes prog (effect i s) := by
  rw [payBytes, outputs_cons]
  cases h : (effect i s).pay with
  | none => simp [payBytes]
  | some b => simp [payBytes]

/-- Over commands without `FP.START`, `PAYLOAD` grows by the bytes seen on `pay`. -/
theorem runInstrs_payload_of_no_fpStart (prog : List Instr) (s : State) (h : .fpStart ∉ prog) :
    ∃ t, runInstrs prog s = .next t ∧ t.payload = s.payload ++ payBytes prog s := by
  induction prog generalizing s with
  | nil => exact ⟨s, rfl, (List.append_nil _).symm⟩
  | cons i rest ih =>
    obtain ⟨hi, hrest⟩ := not_or.1 (mt List.mem_cons.2 h)
    obtain ⟨t, hrun, hpayload⟩ := ih (effect i s) hrest
    refine ⟨t, (runInstrs_cons i rest s).trans hrun, ?_⟩
    rw [hpayload, effect_payload_of_ne_fpStart (Ne.symm hi), payBytes_cons, List.append_assoc]

/-- Settles O46, from what each command does to `pay` and `PAYLOAD`: `FP.START` empties both, and the rest is an induction over the
commands. -/
theorem payloadIsWhatPayCarried : Obligations.PayloadIsWhatPayCarried := by
  unfold Obligations.PayloadIsWhatPayCarried
  refine ⟨fun i s => ⟨effect i s, exec_eq_next i s, effect_pay_eq_some_iff i s⟩, fun prog s hprog => ?_⟩
  obtain ⟨t, hrun, hpayload⟩ := runInstrs_payload_of_no_fpStart prog (effect .fpStart s) hprog
  exact ⟨t, (runInstrs_cons .fpStart prog s).trans hrun, hpayload.trans (payBytes_cons .fpStart prog s).symm⟩

/-! ### `STATUS` (R22) -/

/-- The fields of a word laid out as `STATUS` is, whatever stands above its nine low bits. -/
theorem fields_of_statusLayout {n : Nat} (z : BitVec n) (surplus hasSeq hasRecv : Bool) (err phase : BitVec 3)
    (w : BitVec (n + 1 + 1 + 1 + 3 + 3))
    (hw : w = z ++ BitVec.ofBool surplus ++ BitVec.ofBool hasSeq ++ BitVec.ofBool hasRecv ++ err ++ phase) :
    w.extractLsb' 0 3 = phase ∧ w.extractLsb' 3 3 = err ∧ w.getLsbD 6 = hasRecv ∧ w.getLsbD 7 = hasSeq ∧
    w.getLsbD 8 = surplus ∧ w.extractLsb' 9 n = z := by
  subst hw
  refine ⟨BitVec.extractLsb'_append_eq_right, ?_, ?_, ?_, ?_, ?_⟩
  · simp [BitVec.extractLsb'_append_eq_of_le, BitVec.extractLsb'_append_eq_right]
  · simp [-BitVec.getLsbD_eq_getElem, BitVec.getLsbD_append]
  · simp [-BitVec.getLsbD_eq_getElem, BitVec.getLsbD_append]
  · simp [-BitVec.getLsbD_eq_getElem, BitVec.getLsbD_append]
  · simp [BitVec.extractLsb'_append_eq_of_le]

/-- `FP.BYTE` answers `STATUS` in every phase, as the last thing it does (R141). -/
theorem fpByteAt_eq_respondStatus (cfg : Config) (c : Byte) (s : State) :
    ∃ u code, fpByteAt cfg c s = State.respondStatus u code := by
  cases h : s.phase with
  | idle => exact ⟨_, _, fpByteAt_idle cfg c h⟩
  | lenPrefix => exact ⟨_, _, fpByteAt_lenPrefix cfg c h⟩
  | header => exact ⟨_, _, fpByteAt_header cfg c h⟩
  | payload => exact ⟨_, _, fpByteAt_payload cfg c h⟩
  | trailer => exact ⟨_, _, fpByteAt_trailer cfg c h⟩
  | done => exact ⟨_, _, fpByteAt_done cfg c h⟩
  | err => exact ⟨_, _, fpByteAt_err cfg c h⟩

/-- Every `FP` command answers `STATUS`, as the last thing it does (R141). -/
theorem effect_eq_respondStatus {i : Instr} (hi : isParserCommand i = true) (s : State) :
    ∃ u code, effect i s = State.respondStatus u code := by
  cases i with
  | fpStart => exact ⟨_, _, rfl⟩
  | fpByte c => exact fpByteAt_eq_respondStatus Config.spec c s
  | fpEnd =>
    obtain ⟨-, h⟩ | ⟨-, h⟩ | ⟨-, h⟩ := fpEndAt_cases s
    · exact ⟨_, _, h⟩
    · exact ⟨_, _, h⟩
    · exact ⟨_, _, h⟩
  | crcInit => cases hi
  | crcUpd c => cases hi
  | crcGet => cases hi
  | pdDec a b => cases hi
  | pdVal a b c => cases hi
  | rd c => cases hi

/-- Settles O51: the layout of the word, and the one way the `FP` commands respond. -/
theorem statusHasTheStatedLayout : Obligations.StatusHasTheStatedLayout := by
  unfold Obligations.StatusHasTheStatedLayout
  intro s
  obtain ⟨hphase, herr, hrecv, hseq, hsurplus, hupper⟩ := fields_of_statusLayout 0#23 s.surplus s.hasSeq s.hasRecv
    s.err.code s.phase.code s.status rfl
  refine ⟨hphase.trans ?_, herr.trans ?_, hrecv, hseq, hsurplus, hupper, ⟨effect (.rd 0x00) s, rfl, rfl⟩, fun i hi => ?_⟩
  · cases s.phase <;> rfl
  · cases s.err <;> rfl
  · obtain ⟨u, code, h⟩ := effect_eq_respondStatus hi s
    refine ⟨effect i s, code, exec_eq_next i s, ?_⟩
    rw [h]
    rfl

end Sys2Proof.Machine
end

section
/-! Proofs: the fields of a command word, what the decoder makes of them, and the numbers of `RD` (30_encoding.md R80 to R83,
43_system.md R170, R171). -/

namespace Sys2Proof

/-! ### The four fields of a word (R80) -/

theorem extractLsb'_append_bytes {n : Nat} (op : BitVec n) (a b c : Byte) :
    (op ++ a ++ b ++ c).extractLsb' 24 n = op ∧ (op ++ a ++ b ++ c).extractLsb' 16 8 = a ∧
    (op ++ a ++ b ++ c).extractLsb' 8 8 = b ∧ (op ++ a ++ b ++ c).extractLsb' 0 8 = c := by
  simp [BitVec.extractLsb'_append_eq_of_le, BitVec.extractLsb'_append_eq_right]

@[simp] theorem splitWord_joinWord (f : CommandWord) : splitWord (joinWord f) = f := by
  obtain ⟨op, a, b, c⟩ := f
  exact (CommandWord.mk.injEq ..).mpr (extractLsb'_append_bytes op a b c)

theorem append_fields_ab (w : Word) : w.extractLsb' 16 8 ++ w.extractLsb' 8 8 = w.extractLsb' 8 16 :=
  BitVec.extractLsb'_append_extractLsb'_eq_extractLsb' rfl

theorem append_fields_abc (w : Word) :
    w.extractLsb' 16 8 ++ w.extractLsb' 8 8 ++ w.extractLsb' 0 8 = w.extractLsb' 0 24 := by
  rw [append_fields_ab]
  exact BitVec.extractLsb'_append_extractLsb'_eq_extractLsb' rfl

@[simp] theorem joinWord_splitWord (w : Word) : joinWord (splitWord w) = w :=
  calc joinWord (splitWord w)
    _ = w.extractLsb' 24 8 ++ w.extractLsb' 16 8 ++ w.extractLsb' 8 8 ++ w.extractLsb' 0 8 := rfl
    _ = w.extractLsb' 16 16 ++ w.extractLsb' 8 8 ++ w.extractLsb' 0 8 :=
        congrArg (· ++ w.extractLsb' 8 8 ++ w.extractLsb' 0 8) (BitVec.extractLsb'_append_extractLsb'_eq_extractLsb' rfl)
    _ = w.extractLsb' 8 24 ++ w.extractLsb' 0 8 :=
        congrArg (· ++ w.extractLsb' 0 8) (BitVec.extractLsb'_append_extractLsb'_eq_extractLsb' rfl)
    _ = w.extractLsb' 0 32 := BitVec.extractLsb'_append_extractLsb'_eq_extractLsb' rfl
    _ = w := BitVec.extractLsb'_eq_self

theorem joinWord_inj {f g : CommandWord} : joinWord f = joinWord g ↔ f = g :=
  (Function.LeftInverse.injective splitWord_joinWord).eq_iff

/-! ### The fields a format does not use (R81) -/

theorem unusedZero_z_eq_false {w : Word} (h : w.extractLsb' 0 24 ≠ 0) : (splitWord w).unusedZero .z = false := by
  refine Bool.eq_false_iff.2 fun hz => h ?_
  obtain ⟨⟨ha, hb⟩, hc⟩ : (w.extractLsb' 16 8 = 0 ∧ w.extractLsb' 8 8 = 0) ∧ w.extractLsb' 0 8 = 0 := by
    simpa [CommandWord.unusedZero, splitWord] using hz
  rw [← append_fields_abc, ha, hb, hc]
  rfl

theorem unusedZero_b_eq_false {w : Word} (h : w.extractLsb' 8 16 ≠ 0) : (splitWord w).unusedZero .b = false := by
  refine Bool.eq_false_iff.2 fun hz => h ?_
  obtain ⟨ha, hb⟩ : w.extractLsb' 16 8 = 0 ∧ w.extractLsb' 8 8 = 0 := by
    simpa [CommandWord.unusedZero, splitWord] using hz
  rw [← append_fields_ab, ha, hb]
  rfl

theorem unusedZero_p2_eq_false {w : Word} (h : w.extractLsb' 0 8 ≠ 0) : (splitWord w).unusedZero .p2 = false :=
  beq_false_of_ne h

/-- A command's opcode has its row's format, and its unused fields are zero: the laws of each constructor, together. -/
theorem Instr.fielded (i : Instr) : Laws.Fielded.Statement i := by
  cases i with
  | crcInit => exact Laws.Fielded.crcInit
  | crcUpd c => exact Laws.Fielded.crcUpd c
  | crcGet => exact Laws.Fielded.crcGet
  | fpStart => exact Laws.Fielded.fpStart
  | fpByte c => exact Laws.Fielded.fpByte c
  | fpEnd => exact Laws.Fielded.fpEnd
  | pdDec a b => exact Laws.Fielded.pdDec a b
  | pdVal a b c => exact Laws.Fielded.pdVal a b c
  | rd c => exact Laws.Fielded.rd c

/-- Under a listed opcode, well-formedness is the check of the unused fields. -/
theorem CommandWord.wf_of_op {f : CommandWord} {i : Instr} (h : f.op = i.fields.op) : f.wf = f.unusedZero i.row.format := by
  obtain ⟨hformat, -⟩ := i.fielded
  simp [CommandWord.wf, h, hformat]

/-! ### The command of an opcode (R82) -/

/-- The opcode alone fixes the row. -/
theorem commandOf_of_op {f : CommandWord} {i : Instr} (h : f.op = i.fields.op) :
    ∃ j, commandOf f = some j ∧ j.row = i.row := by
  obtain ⟨op, a, b, c⟩ := f
  subst h
  cases i <;> exact ⟨_, rfl, rfl⟩

theorem op_fields_of_commandOf {f : CommandWord} {i : Instr} (h : commandOf f = some i) : f.op = i.fields.op := by
  unfold commandOf at h
  split at h <;> cases h
  all_goals exact BitVec.eq_of_toNat_eq ‹f.op.toNat = _›

theorem commandOf_fields (i : Instr) : commandOf i.fields = some i := by cases i <;> rfl

theorem Instr.op_fields_mem (i : Instr) :
    i.fields.op ∈ [0x01#8, 0x02#8, 0x03#8, 0x10#8, 0x11#8, 0x12#8, 0x20#8, 0x21#8, 0x30#8] := by
  cases i <;> simp [Instr.fields]

theorem commandOf_eq_none {f : CommandWord}
    (h : f.op ∉ [0x01#8, 0x02#8, 0x03#8, 0x10#8, 0x11#8, 0x12#8, 0x20#8, 0x21#8, 0x30#8]) : commandOf f = none := by
  refine Option.eq_none_iff_forall_ne_some.2 fun i hi => h ?_
  rw [op_fields_of_commandOf hi]
  exact i.op_fields_mem

/-! ### What `decode` answers, case by case (R83) -/

theorem decode_of_commandOf_eq_none {w : Word} (h : commandOf (splitWord w) = none) :
    decode w = .error (.unknownOpcode (splitWord w).op) := by
  simp [decode, h]

theorem decode_of_unusedZero_eq_false {w : Word} {i : Instr} (hop : (splitWord w).op = i.fields.op)
    (hz : (splitWord w).unusedZero i.row.format = false) : decode w = .error (.unusedFieldNotZero (splitWord w).op) := by
  obtain ⟨j, hj, -⟩ := commandOf_of_op hop
  simp [decode, hj, CommandWord.wf_of_op hop, hz]

theorem decode_of_unusedZero {w : Word} {i : Instr} (hop : (splitWord w).op = i.fields.op)
    (hz : (splitWord w).unusedZero i.row.format = true) : ∃ j, decode w = .ok j ∧ j.row = i.row := by
  obtain ⟨j, hj, hrow⟩ := commandOf_of_op hop
  exact ⟨j, by simp [decode, hj, CommandWord.wf_of_op hop, hz], hrow⟩

/-- A word that decodes has the opcode of its command, and zeros where that command's format wants them. -/
theorem op_and_unusedZero_of_decode {w : Word} {i : Instr} (h : decode w = .ok i) :
    (splitWord w).op = i.fields.op ∧ (splitWord w).unusedZero i.row.format = true := by
  cases hc : commandOf (splitWord w) with
  | none => simp [decode, hc] at h
  | some j =>
    have hop := op_fields_of_commandOf hc
    simp only [decode, hc, CommandWord.wf_of_op hop] at h
    split at h
    · next hz => cases h; exact ⟨hop, hz⟩
    · cases h

theorem decode_encode (i : Instr) : decode (encode i) = .ok i := by
  obtain ⟨-, hz⟩ := i.fielded
  simp [decode, encode, commandOf_fields, CommandWord.wf_of_op (f := i.fields) (i := i) rfl, hz]

/-- Format B written as three upper bytes and the operand. -/
theorem decode_append_operand {i : Instr} {op c : Byte} {upper : BitVec 24} (hfields : i.fields = ⟨op, 0, 0, c⟩)
    (hupper : op ++ 0#8 ++ 0#8 = upper) : decode (upper ++ c) = .ok i := by
  have hencode : encode i = upper ++ c := by
    subst hupper
    rw [encode, hfields]
    rfl
  exact hencode ▸ decode_encode i

/-! ### The masks of the opcode map (R82) -/

/-- The fields a format's mask keeps: the opcode and every unused field. -/
def Format.mask : Format → CommandWord
  | .z => ⟨0xFF, 0xFF, 0xFF, 0xFF⟩
  | .b => ⟨0xFF, 0xFF, 0xFF, 0⟩
  | .p2 => ⟨0xFF, 0, 0, 0xFF⟩
  | .p3 => ⟨0xFF, 0, 0, 0⟩

/-- A word's fields under a mask, field by field. -/
def CommandWord.masked (f m : CommandWord) : CommandWord := ⟨f.op &&& m.op, f.a &&& m.a, f.b &&& m.b, f.c &&& m.c⟩

theorem Instr.row_maskBits (i : Instr) : i.row.maskBits = joinWord i.row.format.mask := by
  cases i <;> dsimp only [Instr.row] <;> decide

theorem Instr.row_matchBits (i : Instr) : i.row.matchBits = joinWord ⟨i.fields.op, 0, 0, 0⟩ := by
  cases i <;> dsimp only [Instr.row, Instr.fields] <;> decide

theorem joinWord_masked (f m : CommandWord) : joinWord (f.masked m) = joinWord f &&& joinWord m := by
  have append₄ (x y z w x' y' z' w' : Byte) :
      (x ++ y ++ z ++ w) &&& (x' ++ y' ++ z' ++ w') = (x &&& x') ++ (y &&& y') ++ (z &&& z') ++ (w &&& w') := by
    simp only [BitVec.and_append]
  exact (append₄ ..).symm

theorem CommandWord.masked_mask_eq_iff (f : CommandWord) (op : Byte) (k : Format) :
    f.masked k.mask = ⟨op, 0, 0, 0⟩ ↔ f.op = op ∧ f.unusedZero k = true := by
  have keep (x : Byte) : x &&& 255#8 = x := BitVec.and_allOnes
  cases k <;> simp [CommandWord.masked, Format.mask, CommandWord.unusedZero, keep, and_assoc]

/-- The masked bits of a word are a row's match exactly when the opcode is the row's and the unused fields are zero. -/
theorem and_maskBits_eq_matchBits_iff (w : Word) (i : Instr) :
    w &&& i.row.maskBits = i.row.matchBits ↔
      (splitWord w).op = i.fields.op ∧ (splitWord w).unusedZero i.row.format = true :=
  calc w &&& i.row.maskBits = i.row.matchBits
    _ ↔ joinWord ((splitWord w).masked i.row.format.mask) = joinWord ⟨i.fields.op, 0, 0, 0⟩ := by
        rw [joinWord_masked, joinWord_splitWord, i.row_maskBits, i.row_matchBits]
    _ ↔ (splitWord w).masked i.row.format.mask = ⟨i.fields.op, 0, 0, 0⟩ := joinWord_inj
    _ ↔ _ := CommandWord.masked_mask_eq_iff ..

theorem exists_row_of_mem_opcodeTable {r : OpcodeRow} (h : r ∈ opcodeTable) : ∃ i : Instr, i.row = r := by
  have htable : opcodeTable = [.crcInit, .crcUpd 0, .crcGet, .fpStart, .fpByte 0, .fpEnd, .pdDec 0 0, .pdVal 0 0 0, .rd 0].map
    Instr.row := rfl
  rw [htable] at h
  obtain ⟨i, -, hi⟩ := List.mem_map.1 h
  exact ⟨i, hi⟩

/-- A row covers a word exactly when the word decodes to a command of that row. -/
theorem and_maskBits_eq_matchBits_iff_decode (w : Word) {r : OpcodeRow} (hr : r ∈ opcodeTable) :
    w &&& r.maskBits = r.matchBits ↔ ∃ i, decode w = .ok i ∧ i.row = r := by
  constructor
  · intro h
    obtain ⟨i, rfl⟩ := exists_row_of_mem_opcodeTable hr
    obtain ⟨hop, hz⟩ := (and_maskBits_eq_matchBits_iff w i).1 h
    exact decode_of_unusedZero hop hz
  · rintro ⟨i, hdecode, rfl⟩
    exact (and_maskBits_eq_matchBits_iff w i).2 (op_and_unusedZero_of_decode hdecode)

/-- Settles O3. Since a covering row is the row of the decoded command, no two rows cover one word; the operands are those of
`encode`. -/
theorem wordIsCommandOfExactlyTheCoveringRow : Obligations.WordIsCommandOfExactlyTheCoveringRow := by
  unfold Obligations.WordIsCommandOfExactlyTheCoveringRow
  refine ⟨rfl, fun w r hr => and_maskBits_eq_matchBits_iff_decode w hr, fun w r₁ hr₁ r₂ hr₂ h₁ h₂ => ?_, fun a b c => ?_⟩
  · obtain ⟨i, hi, rfl⟩ := (and_maskBits_eq_matchBits_iff_decode w hr₁).1 h₁
    obtain ⟨j, hj, rfl⟩ := (and_maskBits_eq_matchBits_iff_decode w hr₂).1 h₂
    rw [hi] at hj
    cases hj
    rfl
  · exact ⟨decode_append_operand rfl (by decide), decode_append_operand rfl (by decide), decode_append_operand rfl (by decide),
      decode_encode (.pdDec a b), decode_encode (.pdVal a b c)⟩

end Sys2Proof

namespace Sys2Proof.Machine

/-! ### The numbers that name no register (R171) -/

theorem number_of_regOfNumber {c : Byte} {r : RegName} (h : regOfNumber c = some r) : r.number = c := by
  unfold regOfNumber at h
  split at h <;> cases h
  all_goals exact (BitVec.eq_of_toNat_eq ‹c.toNat = _›).symm

theorem RegName.number_range (r : RegName) :
    r.number.toNat < 0x08 ∨ 0x10 ≤ r.number.toNat ∧ r.number.toNat < 0x1A := by
  cases r <;> decide

theorem regOfNumber_eq_none {c : Byte} (h : 0x08 ≤ c.toNat ∧ c.toNat ≤ 0x0F ∨ 0x1A ≤ c.toNat) : regOfNumber c = none := by
  refine Option.eq_none_iff_forall_ne_some.2 fun r hr => ?_
  have hrange := r.number_range
  rw [number_of_regOfNumber hr] at hrange
  omega

/-- `RD` of a number that names no register answers as an illegal word does (R170, R189). -/
theorem exec_rd_of_regOfNumber_eq_none {c : Byte} (h : regOfNumber c = none) (s : State) : exec (.rd c) s = .next s.illegal := by
  have hread : s.readRegister c = ⟨.illegal, 0⟩ := by simp [State.readRegister, h]
  rw [exec_eq_next, effect, rdAt, hread]
  rfl

/-- Settles O4: the opcode decides between the two rejections, and within a format the unused fields do. -/
theorem illegalWordsAreRejectedByName : Obligations.IllegalWordsAreRejectedByName := by
  unfold Obligations.IllegalWordsAreRejectedByName
  refine ⟨fun w hop => decode_of_commandOf_eq_none (commandOf_eq_none hop), fun w hop h => ?_, fun w hop h => ?_,
    fun w hop h => ?_, fun w hop => ?_, fun s c => ⟨decode_append_operand rfl (by decide), fun h => ?_⟩⟩
  · have hz := unusedZero_z_eq_false h
    simp only [List.mem_cons, List.not_mem_nil, or_false] at hop
    obtain hop | hop | hop | hop := hop
    · exact decode_of_unusedZero_eq_false (i := .crcInit) hop hz
    · exact decode_of_unusedZero_eq_false (i := .crcGet) hop hz
    · exact decode_of_unusedZero_eq_false (i := .fpStart) hop hz
    · exact decode_of_unusedZero_eq_false (i := .fpEnd) hop hz
  · have hz := unusedZero_b_eq_false h
    simp only [List.mem_cons, List.not_mem_nil, or_false] at hop
    obtain hop | hop | hop := hop
    · exact decode_of_unusedZero_eq_false (i := .crcUpd 0) hop hz
    · exact decode_of_unusedZero_eq_false (i := .fpByte 0) hop hz
    · exact decode_of_unusedZero_eq_false (i := .rd 0) hop hz
  · rw [decode_of_unusedZero_eq_false (i := .pdDec 0 0) hop (unusedZero_p2_eq_false h)]
    exact congrArg (fun op => Except.error (IllegalWord.unusedFieldNotZero op)) hop
  · obtain ⟨i, hi, -⟩ := decode_of_unusedZero (i := .pdVal 0 0 0) hop rfl
    exact ⟨i, hi⟩
  · exact exec_rd_of_regOfNumber_eq_none (regOfNumber_eq_none h) s

end Sys2Proof.Machine
end

section
/-! Proofs: the CRC commands (40_crc.md R106 to R108), and why a zero byte changes every remainder but 0 (R107). -/

namespace Sys2Proof.Machine

/-! ### What fixes a remainder: the shift step fixes 0 alone, hence so do its second, fourth and eighth iterates -/

/-- The step adds without carry: it is linear over GF(2). -/
def XorAdditive (f : Word → Word) : Prop := ∀ x y, f (x ^^^ y) = f x ^^^ f y

/-- The step leaves no remainder but 0 as it is. -/
def FixesOnlyZero (f : Word → Word) : Prop := ∀ x, f x = x → x = 0

theorem XorAdditive.comp_self {f : Word → Word} (h : XorAdditive f) : XorAdditive (f ∘ f) := fun x y => by
  simp only [Function.comp_apply, h x y, h (f x) (f y)]

/-- Where `f (f x) = x`, `f` fixes `f x ^^^ x`; so that is 0, and `f` fixes `x` already. -/
theorem FixesOnlyZero.comp_self {f : Word → Word} (hadd : XorAdditive f) (hf : FixesOnlyZero f) : FixesOnlyZero (f ∘ f) := by
  intro x hx
  have hsum : f (f x ^^^ x) = f x ^^^ x :=
    calc f (f x ^^^ x)
      _ = f (f x) ^^^ f x := hadd (f x) x
      _ = x ^^^ f x := congrArg (· ^^^ f x) hx
      _ = f x ^^^ x := BitVec.xor_comm x (f x)
  exact hf x (BitVec.xor_eq_zero_iff.1 (hf _ hsum))

theorem eq_zero_of_ushiftRight_one_eq_self {x : Word} (h : x >>> 1 = x) : x = 0 := by
  have hnat : x.toNat / 2 = x.toNat := by simpa [Nat.shiftRight_one] using congrArg BitVec.toNat h
  exact BitVec.eq_of_toNat_eq (show x.toNat = 0 by omega)

theorem ite_bxor_eq_xor (a b : Bool) (p : Word) :
    (if a ^^ b then p else 0) = (if a then p else 0) ^^^ (if b then p else 0) := by
  cases a <;> cases b <;> simp

theorem crcShift_eq_xor_ite (cfg : Config) (x : Word) :
    crcShift cfg x = x >>> 1 ^^^ if x.getLsbD 0 then cfg.crcPolyR else 0 := by
  rw [crcShift]
  split
  · rfl
  · exact BitVec.xor_zero.symm

theorem crcShift_xorAdditive (cfg : Config) : XorAdditive (crcShift cfg) := by
  intro x y
  simp only [crcShift_eq_xor_ite]
  rw [BitVec.getLsbD_xor, ite_bxor_eq_xor, BitVec.ushiftRight_xor_distrib]
  ac_rfl

/-- With its low bit set, a fixed remainder `x` solves `x >>> 1 ^^^ CRC_POLY_R = x`. The one solution of that, `0xB6D0FDC0`, has its low
bit clear. -/
theorem crcShift_spec_fixesOnlyZero : FixesOnlyZero (crcShift Config.spec) := by
  intro x hx
  rw [crcShift_spec] at hx
  split at hx
  · next hbit =>
    have hsolution : x ^^^ 0xB6D0FDC0#32 = 0 := by
      apply eq_zero_of_ushiftRight_one_eq_self
      have hconst : (0xB6D0FDC0#32) >>> 1 = 0xEDB88320#32 ^^^ 0xB6D0FDC0#32 := by decide
      rw [BitVec.ushiftRight_xor_distrib, hconst, ← BitVec.xor_assoc, hx]
    rw [BitVec.xor_eq_zero_iff.1 hsolution] at hbit
    exact absurd hbit (by decide)
  · exact eq_zero_of_ushiftRight_one_eq_self hx

/-- A zero byte changes the remainder unless it is 0 (R107): `crc_step` of it is the eighth iterate of the shift step. -/
theorem crcStep_spec_zero_eq_self_iff (acc : Word) : crcStep Config.spec acc 0 = acc ↔ acc = 0 := by
  have hadd := crcShift_xorAdditive Config.spec
  have heighth : FixesOnlyZero (repeatTimes (crcShift Config.spec) 8) :=
    ((crcShift_spec_fixesOnlyZero.comp_self hadd).comp_self hadd.comp_self).comp_self hadd.comp_self.comp_self
  have hstep : crcStep Config.spec acc 0 = repeatTimes (crcShift Config.spec) 8 acc := by
    rw [crcStep_reflected rfl]
    exact congrArg (repeatTimes (crcShift Config.spec) 8) BitVec.xor_zero
  constructor
  · intro h
    exact heighth acc (hstep.symm.trans h)
  · rintro rfl
    rfl

/-! ### One rule per command (R106 to R108) -/

theorem effect_crcInit (s : State) :
    effect .crcInit s = { s with crcAcc := 0xFFFFFFFF, resp := some ⟨.ok, 0⟩, pay := none } := rfl

theorem effect_crcUpd (c : Byte) (s : State) :
    effect (.crcUpd c) s = { s with crcAcc := crcStep Config.spec s.crcAcc c, resp := some ⟨.ok, 0⟩, pay := none } := rfl

theorem effect_crcGet (s : State) :
    effect .crcGet s = { s with resp := some ⟨.ok, (s.crcAcc ^^^ 0xFFFFFFFF).setWidth 128⟩, pay := none } := rfl

/-- The word of `CRC.UPD` carries the byte in its low eight bits. -/
theorem encode_crcUpd (c : Byte) : encode (.crcUpd c) = 0x020000#24 ++ c := by
  have hupper : 0x02#8 ++ 0#8 ++ 0#8 = 0x020000#24 := by decide
  exact congrArg (· ++ c) hupper

/-! ### Folding a byte sequence and asking for its code -/

/-- `CRC.UPD` of each byte of a sequence and then `CRC.GET` folds the sequence into `CRC_ACC` and answers the code of what that leaves. -/
theorem runInstrs_crcUpd_crcGet (bs : List Byte) (s : State) :
    ∃ t, runInstrs (bs.map .crcUpd ++ [.crcGet]) s = .next t ∧ t.crcAcc = crcFold Config.spec s.crcAcc bs ∧
      t.resp = some ⟨.ok, (crcFinish Config.spec t.crcAcc).setWidth 128⟩ := by
  induction bs generalizing s with
  | nil => exact ⟨effect .crcGet s, runInstrs_cons .crcGet [] s, rfl, rfl⟩
  | cons c rest ih =>
    obtain ⟨t, hrun, hacc, hresp⟩ := ih (effect (.crcUpd c) s)
    exact ⟨t, (runInstrs_cons (.crcUpd c) _ s).trans hrun, hacc, hresp⟩

/-- `CRC.BUF` of a sequence answers the sequence's `crc32`, and leaves its remainder in `CRC_ACC`. -/
theorem runInstrs_crcBuf (bs : List Byte) (s : State) :
    ∃ t, runInstrs (crcBuf bs) s = .next t ∧ t.crcAcc = crcFold Config.spec Config.spec.crcInit bs ∧
      t.resp = some ⟨.ok, (crc32 Config.spec bs).setWidth 128⟩ := by
  obtain ⟨t, hrun, hacc, hresp⟩ := runInstrs_crcUpd_crcGet bs (effect .crcInit s)
  refine ⟨t, (runInstrs_cons .crcInit _ s).trans hrun, hacc, ?_⟩
  rw [hresp, hacc]
  rfl

/-- The trailer is the big-endian form of the code, and so of `CRC.GET`'s answer: zero extension keeps the number (R108). -/
theorem layFrame_trailer_setWidth (cfg : Config) (hb payload : List Byte) :
    layFrame cfg hb payload = BitVec.ofNat 8 hb.length ::
      (hb ++ payload ++ beBytes 4 ((crc32 cfg payload).setWidth 128 : Qword).toNat) := by
  rw [BitVec.toNat_setWidth_of_le (by decide)]
  rfl

/-- Settles O11, by the rule of `CRC.INIT`: what it writes does not depend on what it finds. -/
theorem crcInitStartsANewChecksum : Obligations.CrcInitStartsANewChecksum := by
  unfold Obligations.CrcInitStartsANewChecksum
  refine ⟨by decide, by decide, fun s => ⟨?_, ?_⟩⟩
  · rw [exec_eq_next, effect_crcInit]
  · simp only [runInstrs_cons, effect_crcInit]

/-- Settles O12: the zero byte by the fixed points of the shift step, the checksum after reset by the fold from `CRC_INIT`. -/
theorem crcUpdFoldsTheByte : Obligations.CrcUpdFoldsTheByte := by
  unfold Obligations.CrcUpdFoldsTheByte
  refine ⟨fun s c => ⟨encode_crcUpd c, ?_⟩, crcStep_spec_zero_eq_self_iff, fun bs => ?_⟩
  · rw [exec_eq_next, effect_crcUpd]
  · obtain ⟨t, hrun, hacc, hresp⟩ := runInstrs_crcUpd_crcGet bs State.reset
    refine ⟨t, hrun, ?_⟩
    rw [hresp, hacc]
    rfl

/-- Settles O13, from the fold of each byte sequence; splitting the sequence does not matter. -/
theorem crcGetAnswersTheCode : Obligations.CrcGetAnswersTheCode := by
  unfold Obligations.CrcGetAnswersTheCode
  refine ⟨by decide, fun s => ⟨?_, ?_, ?_⟩, fun s bs more => ?_, fun s hb payload => ?_, rfl⟩
  · rw [exec_eq_next, effect_crcGet]
  · simp only [responses, outputs_cons, effect_crcInit, effect_crcGet, BitVec.xor_self]
    rfl
  · simp only [runInstrs_cons, effect_crcGet]
  · obtain ⟨t, hrun, hacc, hresp⟩ := runInstrs_crcBuf bs s
    obtain ⟨u, hrun', hacc', hresp'⟩ := runInstrs_crcUpd_crcGet more t
    refine ⟨t, u, hrun, hresp, hrun', ?_⟩
    rw [hresp', hacc', hacc, ← crcFold_append]
    rfl
  · obtain ⟨t, hrun, -, hresp⟩ := runInstrs_crcBuf payload s
    exact ⟨t, _, hrun, hresp, layFrame_trailer_setWidth Config.spec hb payload⟩

end Sys2Proof.Machine
end

section
/-! Proofs: the presence commands and the header decoder (41_presence.md R124 to R126). -/

namespace Sys2Proof.Machine

/-! ### Big-endian fields: `be_n` undoes `BE_n` on `n` bytes (R7, R42) -/

/-- What stands above the `n` bytes does not show in them; the induction needs it, each head byte being above the tail. -/
theorem beBytes_beNat_add_mul (bs : List Byte) (k : Nat) : beBytes bs.length (beNat bs + k * 256 ^ bs.length) = bs := by
  induction bs generalizing k with
  | nil => rfl
  | cons b rest ih =>
    have hregroup : beNat (b :: rest) + k * 256 ^ (rest.length + 1) = beNat rest + (b.toNat + k * 256) * 256 ^ rest.length := by
      rw [beNat_cons, pow_succ]
      ring
    have hhead : (beNat rest + (b.toNat + k * 256) * 256 ^ rest.length) / 256 ^ rest.length = b.toNat + k * 256 := by
      rw [Nat.add_mul_div_right _ _ (by positivity), Nat.div_eq_of_lt (beNat_lt rest), Nat.zero_add]
    rw [List.length_cons, beBytes, hregroup, hhead, ih]
    exact congrArg (· :: rest) (BitVec.eq_of_toNat_eq (by simp [b.isLt]))

/-- A register of `j - i` bytes filled from the slice `hb[i:j]` holds its bytes in wire order. -/
theorem beBytes_ofNat_beNat_slice (hb : List Byte) (i j : Nat) (hj : j ≤ hb.length) :
    beBytes (j - i) (BitVec.ofNat (8 * (j - i)) (beNat (slice hb i j))).toNat = slice hb i j := by
  have hlen : (slice hb i j).length = j - i := by rw [length_slice]; omega
  have hfits : beNat (slice hb i j) < 2 ^ (8 * (j - i)) := by
    have hlt := beNat_lt (slice hb i j)
    rwa [hlen, show 256 = 2 ^ 8 from rfl, ← pow_mul] at hlt
  have hbytes := beBytes_beNat_add_mul (slice hb i j) 0
  rw [BitVec.toNat_ofNat, Nat.mod_eq_of_lt hfits]
  rwa [hlen, Nat.zero_mul, Nat.add_zero] at hbytes

/-! ### Presence and the header decoder (R122, R124) -/

/-- The header length that the unit's control bytes imply (R122). -/
theorem presence_spec_len (a b : Byte) :
    (presence Config.spec a b).len = 52 + (if a = 2 then 16 else 0) + (if b = 1 then 4 else 0) := by
  simp [presence, isBroadcast, isDatagram, Config.spec, hdrBase, recvLen, seqLen]

theorem presence_spec_len_bounds (a b : Byte) :
    52 ≤ 52 + (if a = 2 then 16 else 0) + (if b = 1 then 4 else 0) ∧
    52 + (if a = 2 then 16 else 0) + (if b = 1 then 4 else 0) ≤ 72 :=
  presence_spec_len a b ▸ presence_len_bounds Config.spec a b

/-- The implied length decides alone: it lies in SH's bounds, so the test of the bounds refuses nothing more. -/
theorem decodeHeader_eq_ite (cfg : Config) (hb : List Byte) (p : Presence)
    (hp : presence cfg (byteAt hb cfg.offMsgType) (byteAt hb cfg.offProtocol) = p) :
    decodeHeader cfg hb =
      if p.len = hb.length then .ok ⟨headerFields cfg p hb, p.recv, p.seq⟩ else .error .decodeError := by
  obtain ⟨hmin, hmax⟩ := presence_len_bounds cfg (byteAt hb cfg.offMsgType) (byteAt hb cfg.offProtocol)
  rw [hp] at hmin hmax
  simp only [decodeHeader, hp]
  by_cases hlen : p.len = hb.length
  · rw [if_neg (by omega), if_neg (not_not_intro hlen), if_pos hlen]
  · rw [if_pos hlen, if_neg hlen, ite_self]

theorem decodeHeader_succeeds_iff (cfg : Config) (hb : List Byte) :
    (∃ d, decodeHeader cfg hb = .ok d) ↔
      (presence cfg (byteAt hb cfg.offMsgType) (byteAt hb cfg.offProtocol)).len = hb.length := by
  rw [decodeHeader_eq_ite cfg hb _ rfl]
  split
  · next h => exact iff_of_true ⟨_, rfl⟩ h
  · next h => exact iff_of_false (fun ⟨_, hd⟩ => nomatch hd) h

/-- The optional blocks in the unit's order: `Receiver` at 52, `Sequence` behind it (R63); an absent block reads zero. -/
theorem headerFields_spec_blocks (p : Presence) (hb : List Byte) :
    (p.recv = true → (headerFields Config.spec p hb).receiver = BitVec.ofNat 128 (beNat (slice hb 52 68))) ∧
    (p.recv = false → (headerFields Config.spec p hb).receiver = 0) ∧
    (p.recv = true → p.seq = true →
      (headerFields Config.spec p hb).sequence = BitVec.ofNat 32 (beNat (slice hb 68 72))) ∧
    (p.recv = false → p.seq = true →
      (headerFields Config.spec p hb).sequence = BitVec.ofNat 32 (beNat (slice hb 52 56))) ∧
    (p.seq = false → (headerFields Config.spec p hb).sequence = 0) := by
  obtain ⟨r, s, n⟩ := p
  refine ⟨?_, ?_, ?_, ?_, ?_⟩
  · rintro rfl; rfl
  · rintro rfl; rfl
  · rintro rfl rfl; rfl
  · rintro rfl rfl; rfl
  · rintro rfl; rfl

/-- Settles O23: the length test is the one of the implied length, and each field is the number of the slice it stands in. -/
theorem decodeHeaderFollowsTheWireFormat : Obligations.DecodeHeaderFollowsTheWireFormat := by
  unfold Obligations.DecodeHeaderFollowsTheWireFormat
  intro hb
  have hdecode := decodeHeader_eq_ite Config.spec hb (presence Config.spec (byteAt hb 49) (byteAt hb 51)) rfl
  rw [presence_spec_len] at hdecode
  obtain ⟨hmin, hmax⟩ := presence_spec_len_bounds (byteAt hb 49) (byteAt hb 51)
  refine ⟨fun hfail => ?_, fun h52 _ hlen => ⟨_, hdecode.trans (if_pos hlen.symm), ?_⟩⟩
  · rw [hdecode, if_neg (by omega)]
  obtain ⟨receiver, noReceiver, sequenceLast, sequenceFirst, noSequence⟩ :=
    headerFields_spec_blocks (presence Config.spec (byteAt hb 49) (byteAt hb 51)) hb
  refine ⟨beBytes_ofNat_beNat_slice hb 0 16 (by omega), beBytes_ofNat_beNat_slice hb 16 32 (by omega),
    beBytes_ofNat_beNat_slice hb 32 40 (by omega), beBytes_ofNat_beNat_slice hb 40 48 (by omega), rfl, rfl, rfl, rfl,
    fun hr => ?_, fun hr => noReceiver (decide_eq_false hr), fun hr hs => ?_, fun hr hs => ?_,
    fun hs => noSequence (decide_eq_false hs)⟩
  · rw [if_pos hr] at hlen
    rw [receiver (decide_eq_true hr)]
    exact beBytes_ofNat_beNat_slice hb 52 68 (by omega)
  · rw [if_pos hr, if_pos hs] at hlen
    rw [sequenceLast (decide_eq_true hr) (decide_eq_true hs)]
    exact beBytes_ofNat_beNat_slice hb 68 72 (by omega)
  · rw [if_neg hr, if_pos hs] at hlen
    rw [sequenceFirst (decide_eq_false hr) (decide_eq_true hs)]
    exact beBytes_ofNat_beNat_slice hb 52 56 (by omega)

/-! ### The answers of `PD.DEC` and `PD.VAL` (R125, R126) -/

theorem effect_pdDec (a b : Byte) (s : State) :
    effect (.pdDec a b) s =
      { s with resp := some ⟨.ok, (presenceBits (presence Config.spec a b)).setWidth 128⟩, pay := none } := rfl

theorem effect_pdVal (a b c : Byte) (s : State) :
    effect (.pdVal a b c) s =
      { s with
        resp := some ⟨.ok, (BitVec.ofBool (lengthValid (presence Config.spec a b) c) ++
          presenceBits (presence Config.spec a b)).setWidth 128⟩
        pay := none } := rfl

/-- The ten bits of R125: the length, then `r`, then `s`. -/
theorem presenceBits_fields (p : Presence) :
    (presenceBits p).extractLsb' 0 8 = BitVec.ofNat 8 p.len ∧ (presenceBits p).getLsbD 8 = p.recv ∧
    (presenceBits p).getLsbD 9 = p.seq := by
  have hflags : (BitVec.ofBool p.seq ++ BitVec.ofBool p.recv).getLsbD 0 = p.recv ∧
      (BitVec.ofBool p.seq ++ BitVec.ofBool p.recv).getLsbD 1 = p.seq := by
    cases p.seq <;> cases p.recv <;> decide
  exact ⟨BitVec.extractLsb'_append_eq_right, BitVec.getLsbD_append.trans hflags.1, BitVec.getLsbD_append.trans hflags.2⟩

/-- The fields of an answer that has the ten bits at the bottom and `z` above them. -/
theorem fields_of_presenceAnswer {m : Nat} (z : BitVec m) (a b : Byte) (data : Qword)
    (hdata : data = (z ++ presenceBits (presence Config.spec a b)).setWidth 128) :
    (data.extractLsb' 0 8).toNat = 52 + (if a = 2 then 16 else 0) + (if b = 1 then 4 else 0) ∧
    data.getLsbD 8 = decide (a = 2) ∧ data.getLsbD 9 = decide (b = 1) ∧ data.extractLsb' 10 118 = z.extractLsb' 0 118 := by
  obtain ⟨hlen, hrecv, hseq⟩ := presenceBits_fields (presence Config.spec a b)
  obtain ⟨-, hmax⟩ := presence_len_bounds Config.spec a b
  have hfits : (presence Config.spec a b).len < 2 ^ 8 := Nat.lt_of_le_of_lt hmax (by decide)
  subst hdata
  refine ⟨?_, ?_, ?_, ?_⟩
  · rw [BitVec.extractLsb'_setWidth_of_le (by decide), BitVec.extractLsb'_append_eq_of_add_le (by decide), hlen,
      BitVec.toNat_ofNat, Nat.mod_eq_of_lt hfits, presence_spec_len]
  · rw [BitVec.getLsbD_setWidth, BitVec.getLsbD_append]
    exact hrecv
  · rw [BitVec.getLsbD_setWidth, BitVec.getLsbD_append]
    exact hseq
  · rw [BitVec.extractLsb'_setWidth_of_le (by decide), BitVec.extractLsb'_append_eq_of_le (by decide)]

/-- A single bit at the bottom of the upper 118. -/
theorem fields_of_bitAbove {data : Qword} {v : Bool} (h : data.extractLsb' 10 118 = (BitVec.ofBool v).extractLsb' 0 118) :
    data.getLsbD 10 = v ∧ data.extractLsb' 11 117 = 0 := by
  have hbits : ∀ i, i < 118 → data.getLsbD (10 + i) = (BitVec.ofBool v).getLsbD i := fun i hi => by
    simpa [hi] using congrArg (BitVec.getLsbD · i) h
  refine ⟨(hbits 0 (by decide)).trans (by simp), BitVec.eq_of_getLsbD_eq fun i hi => ?_⟩
  rw [BitVec.getLsbD_extractLsb', show 11 + i = 10 + (i + 1) by omega, hbits (i + 1) (by omega),
    BitVec.getLsbD_of_ge _ _ (by omega)]
  simp

/-- `valid` of R126 holds exactly when the length is the one the control bytes imply, which lies in the bounds. -/
theorem lengthValid_presence_iff (cfg : Config) (a b c : Byte) :
    lengthValid (presence cfg a b) c = true ↔ (presence cfg a b).len = c.toNat := by
  obtain ⟨hmin, hmax⟩ := presence_len_bounds cfg a b
  simp only [lengthValid, Bool.and_eq_true, decide_eq_true_eq]
  omega

/-- Settles O21, by the fields of the answer with nothing above the ten bits. -/
theorem pdDecAnswersPresence : Obligations.PdDecAnswersPresence := by
  unfold Obligations.PdDecAnswersPresence
  intro s a b
  obtain ⟨hlen, hrecv, hseq, hupper⟩ := fields_of_presenceAnswer 0#0 a b
    ((presenceBits (presence Config.spec a b)).setWidth 128) (by rw [BitVec.zero_width_append]; rfl)
  exact ⟨rfl, _, (exec_eq_next _ s).trans (congrArg _ (effect_pdDec a b s)), hlen, hrecv, hseq, hupper⟩

/-- Settles O22: `valid` says that the length is the implied one, and so does `decodeHeader` by succeeding. -/
theorem pdValAnswersValidity : Obligations.PdValAnswersValidity := by
  unfold Obligations.PdValAnswersValidity
  intro s a b c
  obtain ⟨hmin, hmax⟩ := presence_spec_len_bounds a b
  have hvalid := lengthValid_presence_iff Config.spec a b c
  obtain ⟨hlen, hrecv, hseq, hupper⟩ :=
    fields_of_presenceAnswer (BitVec.ofBool (lengthValid (presence Config.spec a b) c)) a b _ rfl
  obtain ⟨hbit, hzeros⟩ := fields_of_bitAbove hupper
  refine ⟨rfl, _, (exec_eq_next _ s).trans (congrArg _ (effect_pdVal a b c s)), hlen, hrecv, hseq, hzeros, ?_, ?_⟩
  · rw [hbit, hvalid, presence_spec_len]
    omega
  · rintro hb hc rfl rfl
    rw [hbit, hvalid, decodeHeader_succeeds_iff, hc]
    rfl

end Sys2Proof.Machine
end

section
/-! Proofs: the frame parser, command by command (42_frame_parser.md R142 to R150, R152). -/

namespace Sys2Proof.Machine

/-! ### The rules the statements need beyond those of Laws/Parser.lean -/

theorem exec_fpByte (c : Byte) (s : State) : exec (.fpByte c) s = .next (fpByteAt Config.spec c s) :=
  exec_eq_next (.fpByte c) s

theorem exec_fpEnd (s : State) : exec .fpEnd s = .next (fpEndAt s) := exec_eq_next .fpEnd s

/-- `STATUS` of an open frame: `PHASE` is `PREFIX`, and every flag is clear (R22, R142). -/
theorem State.status_openFrame (cfg : Config) (s : State) : (s.openFrame cfg).status = 0x001 :=
  show (0 : BitVec 23) ++ BitVec.ofBool false ++ BitVec.ofBool false ++ BitVec.ofBool false ++ ErrCode.none.code ++
    Phase.lenPrefix.code = 0x001 by decide

theorem effect_fpStart (s : State) :
    effect .fpStart s =
      { crcAcc := s.crcAcc, phase := .lenPrefix, err := .none, hlen := 0, hcnt := 0, hbuf := Vector.replicate 72 0,
        prem := 0, tcnt := 0, trailer := 0, rxCrc := 0xFFFFFFFF, hasRecv := false, hasSeq := false, surplus := false,
        payload := [], hdr := ⟨0, 0, 0, 0, 0, 0, 0, 0, 0, 0⟩, resp := some ⟨.ok, 0x001⟩, pay := none, port := s.port } := by
  have hstatus : (s.openFrame Config.spec).status.setWidth 128 = (0x001 : Qword) := by
    rw [State.status_openFrame]
    decide
  rw [← hstatus]
  rfl

/-- A header length other than 0 opens the header (R144). -/
theorem State.prefixByte_of_ne (cfg : Config) (c : Byte) (s : State) (h : c ≠ 0) :
    s.prefixByte cfg c = { s with hlen := c, hcnt := 0#8, phase := .header } :=
  (State.prefixByte_eq cfg c s).trans (if_neg h)

/-- The header length 0 fails the frame at once (R144, R146). -/
theorem State.prefixByte_zero (cfg : Config) (s : State) :
    s.prefixByte cfg 0 = ({ s with hlen := 0, hcnt := 0, phase := .header } : State).fail .decodeError :=
  (State.prefixByte_eq cfg 0 s).trans (if_pos rfl)

/-- The two causes for which header completion fails the frame, as one (R146). -/
theorem State.headerComplete_eq_fail (cfg : Config) (s : State) {e : ErrorKind}
    (h : s.hlen.toNat < 52 ∨ 72 < s.hlen.toNat ∨ decodeHeader cfg (s.hbuf.toList.take s.hlen.toNat) = .error e) :
    s.headerComplete cfg = s.fail .decodeError := by
  obtain hmin | hmax | hdecode := h
  · exact State.headerComplete_of_bounds cfg s (.inl hmin)
  · exact State.headerComplete_of_bounds cfg s (.inr hmax)
  · rw [← slice_zero] at hdecode
    exact State.headerComplete_of_error cfg s hdecode

/-- `FP.END` truncates a frame in progress (R150). -/
theorem fpEndAt_inProgress {s : State}
    (h : s.phase = .lenPrefix ∨ s.phase = .header ∨ s.phase = .payload ∨ s.phase = .trailer) :
    fpEndAt s = (s.quiet.fail .truncatedFrame).respondStatus .ok := by
  obtain h | h | h | h := h <;> simpa [h] using fpEndAt_cases s

theorem fpEndAt_done {s : State} (h : s.phase = .done) : fpEndAt s = s.quiet.respondStatus .ok := by
  simpa [h] using fpEndAt_cases s

/-- `FP.END` has no frame to end in `IDLE` and `ERR` (R150). -/
theorem fpEndAt_ignored {s : State} (h : s.phase = .idle ∨ s.phase = .err) : fpEndAt s = s.quiet.respondStatus .ignored := by
  obtain h | h := h <;> simpa [h] using fpEndAt_cases s

/-! ### The statements -/

/-- Settles O31: the byte is stored at its offset, and then the step is one of the three of R145 and R146. -/
theorem fpByteInHeaderStoresAndCompletes : Obligations.FpByteInHeaderStoresAndCompletes := by
  unfold Obligations.FpByteInHeaderStoresAndCompletes
  intro s c hphase
  have hstep := (exec_fpByte c s).trans (congrArg _ (fpByteAt_header Config.spec c hphase))
  refine ⟨s.hbuf.setIfInBounds s.hcnt.toNat c, fun i hi => ?_, fun hmore => ?_, fun d hlast hmin hmax hdecode => ?_,
    fun hlast hfail => ?_⟩
  · rw [Vector.getElem_setIfInBounds]
    exact if_congr eq_comm rfl rfl
  · rw [hstep, State.headerByte_of_lt _ _ s.quiet hmore]
    rfl
  · rw [← slice_zero] at hdecode
    rw [hstep, (State.headerByte_of_eq _ _ s.quiet hlast).trans (State.headerComplete_of_ok _ _ hmin hmax hdecode)]
    rfl
  · rw [hstep, (State.headerByte_of_eq _ _ s.quiet hlast).trans (State.headerComplete_eq_fail _ _ hfail)]
    rfl

/-- Settles O29: what `FP.START` writes does not depend on the parser registers it finds. -/
theorem fpStartOpensANewFrame : Obligations.FpStartOpensANewFrame := by
  unfold Obligations.FpStartOpensANewFrame
  refine ⟨by decide, fun s => ⟨?_, ?_⟩⟩
  · rw [exec_eq_next, effect_fpStart]
  · simp only [runInstrs_cons, effect_fpStart]

/-- Settles O30: a length of 0 is below the least header length, so the header completes and fails at once. -/
theorem fpByteInPrefixTakesTheLength : Obligations.FpByteInPrefixTakesTheLength := by
  unfold Obligations.FpByteInPrefixTakesTheLength
  intro s c hphase
  rw [exec_fpByte, fpByteAt_lenPrefix _ _ hphase]
  constructor
  · intro hc
    rw [State.prefixByte_of_ne _ _ _ hc]
    rfl
  · rintro rfl
    rw [State.prefixByte_zero]
    rfl

/-- Settles O32, by the rule of a payload byte. -/
theorem fpByteInPayloadFoldsAndPassesOut : Obligations.FpByteInPayloadFoldsAndPassesOut := by
  unfold Obligations.FpByteInPayloadFoldsAndPassesOut
  intro s c hphase
  rw [exec_fpByte, fpByteAt_payload _ _ hphase, State.payloadByte_eq, State.quiet_phase, hphase]
  rfl

/-- Settles O33: three trailer bytes counted or not, and then the comparison with the frame's checksum. -/
theorem fpByteInTrailerDecidesAtTheFourth : Obligations.FpByteInTrailerDecidesAtTheFourth := by
  unfold Obligations.FpByteInTrailerDecidesAtTheFourth
  intro s c hphase
  have hstep := (exec_fpByte c s).trans (congrArg _ (fpByteAt_trailer Config.spec c hphase))
  refine ⟨fun hmore => ?_, fun hlast hmatch => ?_, fun hlast hmismatch => ?_⟩
  · rw [hstep, State.trailerByte_of_ne _ _ s.quiet hmore]
    rfl
  · rw [hstep, (State.trailerByte_of_eq Config.spec c s.quiet hlast).trans (if_pos hmatch), hlast]
    rfl
  · rw [hstep, (State.trailerByte_of_eq Config.spec c s.quiet hlast).trans (if_neg hmismatch), hlast]
    rfl

/-- Settles O35, by the rule of `DONE`. -/
theorem fpByteInDoneSetsSurplus : Obligations.FpByteInDoneSetsSurplus := by
  unfold Obligations.FpByteInDoneSetsSurplus
  intro s c hphase
  rw [exec_fpByte, fpByteAt_done _ _ hphase]
  rfl

/-- Settles O36, by the rules of `IDLE` and `ERR`. -/
theorem fpByteInIdleOrErrIsIgnored : Obligations.FpByteInIdleOrErrIsIgnored := by
  unfold Obligations.FpByteInIdleOrErrIsIgnored
  rintro s c (hidle | herr)
  · rw [exec_fpByte, fpByteAt_idle _ _ hidle]
    rfl
  · rw [exec_fpByte, fpByteAt_err _ _ herr]
    rfl

/-- Settles O37, by the three rules of `FP.END`; `FP.START` opens a frame, which is in progress. -/
theorem fpEndTruncatesAFrameInProgress : Obligations.FpEndTruncatesAFrameInProgress := by
  unfold Obligations.FpEndTruncatesAFrameInProgress
  refine ⟨by decide, fun s hphase => ?_, fun s hphase => ?_, fun s hphase => ?_, fun s => ?_⟩
  · rw [exec_fpEnd, fpEndAt_inProgress hphase]
    rfl
  · rw [exec_fpEnd, fpEndAt_done hphase]
    rfl
  · rw [exec_fpEnd, fpEndAt_ignored hphase]
    rfl
  · have hend := fpEndAt_inProgress (s := effect .fpStart s) (.inl rfl)
    refine ⟨_, (runInstrs_cons .fpStart [.fpEnd] s).trans ((runInstrs_cons .fpEnd [] _).trans (congrArg _ hend)), rfl, rfl⟩

end Sys2Proof.Machine
end

section
/-! Proofs: what `RD` answers, and that it writes nothing (43_system.md R170 to R172). -/

namespace Sys2Proof.Machine

/-! ### A register and its number (R171) -/

theorem regOfNumber_number (r : RegName) : regOfNumber r.number = some r := by cases r <;> rfl

/-- The result registers are those numbered from `0x10`. -/
theorem RegName.gated_iff (r : RegName) : r.gated = true ↔ 0x10 ≤ r.number.toNat := by cases r <;> decide

/-- Every number from `0x10` to `0x19` names a result register. -/
theorem exists_gated_of_range {c : Byte} (hlow : 0x10 ≤ c.toNat) (hhigh : c.toNat ≤ 0x19) :
    ∃ r : RegName, r.gated = true ∧ c = r.number := by
  cases hr : regOfNumber c with
  | some r =>
    have hnumber := number_of_regOfNumber hr
    exact ⟨r, r.gated_iff.2 (hnumber ▸ hlow), hnumber.symm⟩
  | none =>
    unfold regOfNumber at hr
    split at hr <;> cases hr
    simp only [imp_false] at *
    omega

/-! ### The three answers (R170, R172) -/

theorem State.readRegister_of_regOfNumber_eq_none (s : State) {c : Byte} (h : regOfNumber c = none) :
    s.readRegister c = ⟨.illegal, 0⟩ := by
  rw [State.readRegister, h]

theorem State.readRegister_number (s : State) (r : RegName) :
    s.readRegister r.number = if r.gated = true ∧ s.phase ≠ .done then ⟨.notValid, 0⟩ else ⟨.ok, s.regValue r⟩ := by
  rw [State.readRegister, regOfNumber_number]

theorem State.readRegister_notValid {s : State} {r : RegName} (hgated : r.gated = true) (hphase : s.phase ≠ .done) :
    s.readRegister r.number = ⟨.notValid, 0⟩ := by
  rw [State.readRegister_number, if_pos ⟨hgated, hphase⟩]

theorem State.readRegister_ungated (s : State) {r : RegName} (hgated : r.gated = false) :
    s.readRegister r.number = ⟨.ok, s.regValue r⟩ := by
  rw [State.readRegister_number, if_neg fun h => Bool.eq_false_iff.1 hgated h.1]

theorem State.readRegister_done {s : State} (hphase : s.phase = .done) (r : RegName) :
    s.readRegister r.number = ⟨.ok, s.regValue r⟩ := by
  rw [State.readRegister_number, if_neg fun h => h.2 hphase]

/-! ### The command -/

theorem encode_rd (c : Byte) : encode (.rd c) = 0x300000#24 ++ c := by
  have hupper : 0x30#8 ++ 0#8 ++ 0#8 = 0x300000#24 := by decide
  exact congrArg (· ++ c) hupper

theorem effect_rd (c : Byte) (s : State) :
    effect (.rd c) s = { s with resp := some (s.readRegister c), pay := none } := rfl

/-- An answer rests on the registers alone, and `RD` writes none. -/
theorem readRegister_effect_rd (c d : Byte) (s : State) : (effect (.rd c) s).readRegister d = s.readRegister d := rfl

/-- `RD` twice equals once: the second finds the same registers (R170). -/
theorem runInstrs_rd_rd (c : Byte) (s : State) : runInstrs [.rd c, .rd c] s = runInstrs [.rd c] s := by
  rw [runInstrs_cons, runInstrs_cons, runInstrs_cons, effect_rd c (effect (.rd c) s), readRegister_effect_rd, effect_rd]

/-- Settles O50: by the number's register, none, gated or not, and by the phase for a gated one. -/
theorem rdAnswersTheRegister : Obligations.RdAnswersTheRegister := by
  unfold Obligations.RdAnswersTheRegister
  intro s c
  have hungated : ∀ r : RegName, r.gated = false → c = r.number → s.readRegister c = ⟨.ok, s.regValue r⟩ :=
    fun r hgated hc => hc ▸ s.readRegister_ungated hgated
  have hresult : s.phase = .done → ∀ r : RegName, c = r.number → s.readRegister c = ⟨.ok, s.regValue r⟩ :=
    fun hdone r hc => hc ▸ State.readRegister_done hdone r
  refine ⟨encode_rd c, runInstrs_rd_rd c s, s.readRegister c, (exec_eq_next _ s).trans (congrArg _ (effect_rd c s)),
    fun hnone => s.readRegister_of_regOfNumber_eq_none (regOfNumber_eq_none hnone), fun hlow hhigh hphase => ?_,
    hungated .status rfl, hungated .hlen rfl, hungated .hcnt rfl, hungated .prem rfl, hungated .tcnt rfl, hungated .trailer rfl,
    hungated .rxCrc rfl, hungated .crcAcc rfl, fun hdone => ⟨hresult hdone .id, hresult hdone .sender, hresult hdone .receiver,
      hresult hdone .timestamp, hresult hdone .length, hresult hdone .sequence, hresult hdone .flags, hresult hdone .msgType,
      hresult hdone .router, hresult hdone .protocol⟩⟩
  obtain ⟨r, hgated, rfl⟩ := exists_gated_of_range hlow hhigh
  exact State.readRegister_notValid hgated hphase

end Sys2Proof.Machine
end

section
/-! Proofs: an illegal word leaves no trace, and what a step answered is not latched (60_exceptions.md R189). -/

namespace Sys2Proof.Machine

/-! ### The operations of the frame parser carry the last response along and do not read it -/

/-- The state as it is after a step that answered `r`. -/
def State.withResp (s : State) (r : Option Response) : State := { s with resp := r }

theorem State.respondStatus_withResp (s : State) (r : Option Response) (code : RespCode) :
    (s.withResp r).respondStatus code = s.respondStatus code := rfl

theorem State.headerComplete_withResp (cfg : Config) (s : State) (r : Option Response) :
    (s.withResp r).headerComplete cfg = (s.headerComplete cfg).withResp r := by
  by_cases hbounds : s.hlen.toNat < hdrMin ∨ hdrMax < s.hlen.toNat
  · rw [State.headerComplete_of_bounds cfg s hbounds, State.headerComplete_of_bounds cfg (s.withResp r) hbounds]
    rfl
  · obtain ⟨hmin, hmax⟩ : hdrMin ≤ s.hlen.toNat ∧ s.hlen.toNat ≤ hdrMax := by omega
    cases hdecode : decodeHeader cfg (slice s.hbuf.toList 0 s.hlen.toNat) with
    | error e =>
      rw [State.headerComplete_of_error cfg s hdecode, State.headerComplete_of_error cfg (s.withResp r) hdecode]
      rfl
    | ok d =>
      rw [State.headerComplete_of_ok cfg s hmin hmax hdecode,
        State.headerComplete_of_ok cfg (s.withResp r) hmin hmax hdecode]
      rfl

theorem State.completeIfFull_withResp (cfg : Config) (s : State) (r : Option Response) :
    (s.withResp r).completeIfFull cfg = (s.completeIfFull cfg).withResp r := by
  rw [State.completeIfFull, State.completeIfFull, State.headerComplete_withResp, apply_ite (State.withResp · r)]
  rfl

theorem State.prefixByte_withResp (cfg : Config) (c : Byte) (s : State) (r : Option Response) :
    (s.withResp r).prefixByte cfg c = (s.prefixByte cfg c).withResp r :=
  State.completeIfFull_withResp cfg { s with hlen := c, hcnt := 0#8, phase := .header } r

theorem State.headerByte_withResp (cfg : Config) (c : Byte) (s : State) (r : Option Response) :
    (s.withResp r).headerByte cfg c = (s.headerByte cfg c).withResp r :=
  State.completeIfFull_withResp cfg { s with hbuf := s.hbuf.setIfInBounds s.hcnt.toNat c, hcnt := s.hcnt + 1#8 } r

theorem State.payloadByte_withResp (cfg : Config) (c : Byte) (s : State) (r : Option Response) :
    (s.withResp r).payloadByte cfg c = (s.payloadByte cfg c).withResp r := by
  rw [State.payloadByte_eq, State.payloadByte_eq]
  rfl

theorem State.trailerByte_withResp (cfg : Config) (c : Byte) (s : State) (r : Option Response) :
    (s.withResp r).trailerByte cfg c = (s.trailerByte cfg c).withResp r := by
  by_cases h : s.tcnt = 3#3
  · rw [State.trailerByte_of_eq cfg c s h, State.trailerByte_of_eq cfg c (s.withResp r) h, apply_ite (State.withResp · r)]
    rfl
  · rw [State.trailerByte_of_ne cfg c s h, State.trailerByte_of_ne cfg c (s.withResp r) h]
    rfl

theorem State.surplusByte_withResp (s : State) (r : Option Response) :
    (s.withResp r).surplusByte = s.surplusByte.withResp r := rfl

/-! ### No command's step depends on the outputs of the step before -/

/-- `FP.BYTE` empties `pay` first and sets the response last; in between, every phase carries the old response along. -/
theorem fpByteAt_eq_of_quiet_eq_withResp (cfg : Config) (c : Byte) {s t : State} {r : Option Response}
    (hquiet : t.quiet = s.quiet.withResp r) : fpByteAt cfg c t = fpByteAt cfg c s := by
  have hphase : t.phase = s.phase := show t.quiet.phase = (s.quiet.withResp r).phase by rw [hquiet]
  cases h : s.phase with
  | idle => rw [fpByteAt_idle cfg c h, fpByteAt_idle cfg c (hphase.trans h), hquiet, State.respondStatus_withResp]
  | lenPrefix =>
    rw [fpByteAt_lenPrefix cfg c h, fpByteAt_lenPrefix cfg c (hphase.trans h), hquiet, State.prefixByte_withResp,
      State.respondStatus_withResp]
  | header =>
    rw [fpByteAt_header cfg c h, fpByteAt_header cfg c (hphase.trans h), hquiet, State.headerByte_withResp,
      State.respondStatus_withResp]
  | payload =>
    rw [fpByteAt_payload cfg c h, fpByteAt_payload cfg c (hphase.trans h), hquiet, State.payloadByte_withResp,
      State.respondStatus_withResp]
  | trailer =>
    rw [fpByteAt_trailer cfg c h, fpByteAt_trailer cfg c (hphase.trans h), hquiet, State.trailerByte_withResp,
      State.respondStatus_withResp]
  | done =>
    rw [fpByteAt_done cfg c h, fpByteAt_done cfg c (hphase.trans h), hquiet, State.surplusByte_withResp,
      State.respondStatus_withResp]
  | err => rw [fpByteAt_err cfg c h, fpByteAt_err cfg c (hphase.trans h), hquiet, State.respondStatus_withResp]

theorem fpEndAt_outputs (s : State) (r : Option Response) (p : Option Byte) :
    fpEndAt { s with resp := r, pay := p } = fpEndAt s := by
  obtain ⟨hphase, hend⟩ | ⟨hphase, hend⟩ | ⟨hphase, hend⟩ := fpEndAt_cases s
  · rw [hend]; exact fpEndAt_inProgress hphase
  · rw [hend]; exact fpEndAt_done hphase
  · rw [hend]; exact fpEndAt_ignored hphase

theorem effect_outputs (i : Instr) (s : State) (r : Option Response) (p : Option Byte) :
    effect i { s with resp := r, pay := p } = effect i s := by
  cases i with
  | fpByte c => exact fpByteAt_eq_of_quiet_eq_withResp Config.spec c (r := r) rfl
  | fpEnd => exact fpEndAt_outputs s r p
  | crcInit => rfl
  | crcUpd c => rfl
  | crcGet => rfl
  | fpStart => rfl
  | pdDec a b => rfl
  | pdVal a b c => rfl
  | rd c => rfl

/-! ### The step of an illegal word -/

theorem step_illegalWord {s : State} {w : Word} {rest : List HostInput} (hport : s.port = .command w :: rest)
    (hillegal : ∀ i, decode w ≠ .ok i) : step s = .next ({ s with port := rest } : State).illegal := by
  obtain ⟨hempty, -⟩ | ⟨_, hreset, -⟩ | ⟨_, _, _, hword, -, hstep⟩ | ⟨_, _, i, hword, hdecode, -⟩ := step_cases s
  · rw [hport] at hempty; cases hempty
  · rw [hport] at hreset; cases hreset
  · rw [hport] at hword; cases hword; exact hstep
  · rw [hport] at hword; cases hword; exact absurd hdecode (hillegal i)

/-- Settles O7: an illegal word is answered and nothing more, and a command overwrites both outputs without reading them. -/
theorem illegalWordLeavesNoTrace : Obligations.IllegalWordLeavesNoTrace := by
  unfold Obligations.IllegalWordLeavesNoTrace
  refine ⟨fun s w rest hport hillegal => step_illegalWord hport hillegal, fun i s r p => ?_⟩
  rw [exec_eq_next, exec_eq_next, effect_outputs]

end Sys2Proof.Machine
end

section
/-! Proofs: a command and its word are one to one, the step of a word, reset, and the response of each command (30_encoding.md R80
to R84, 20_memory.md R47, 60_exceptions.md R189, 70_reset_and_hazards.md R200). -/

namespace Sys2Proof

/-- Settles O1: the laws of each constructor, and the round trip through the four fields. -/
theorem decodeOfEncodeIsTheCommand : Obligations.DecodeOfEncodeIsTheCommand := by
  unfold Obligations.DecodeOfEncodeIsTheCommand
  intro i
  obtain ⟨hformat, hzero⟩ := i.fielded
  have hwf : i.wf = true := (CommandWord.wf_of_op (f := i.fields) rfl).trans hzero
  exact ⟨hwf, decode_encode i⟩

/-- Where the fields that a command does not use are zero, its fields are those of the word it was read from. -/
theorem fields_of_commandOf {f : CommandWord} {i : Instr} (h : commandOf f = some i) (hz : f.unusedZero i.row.format = true) :
    i.fields = f := by
  have hop := op_fields_of_commandOf h
  obtain ⟨op, a, b, c⟩ := f
  subst hop
  cases i <;> simp_all [commandOf, Instr.fields, Instr.row, CommandWord.unusedZero]

theorem commandOf_of_decode {w : Word} {i : Instr} (h : decode w = .ok i) : commandOf (splitWord w) = some i := by
  cases hc : commandOf (splitWord w) with
  | none => simp [decode, hc] at h
  | some j =>
    simp only [decode, hc] at h
    split at h
    · cases h; rfl
    · cases h

/-- Settles O2: the command has the word's fields, and a word is made of its fields. -/
theorem encodeOfDecodeIsTheWord : Obligations.EncodeOfDecodeIsTheWord := by
  unfold Obligations.EncodeOfDecodeIsTheWord
  intro w i h
  obtain ⟨-, hz⟩ := op_and_unusedZero_of_decode h
  rw [encode, fields_of_commandOf (commandOf_of_decode h) hz, joinWord_splitWord]

/-- Settles O5. Each word is the word of its command, which decodes to it. -/
theorem sampleWordsDecode : Obligations.SampleWordsDecode := by
  unfold Obligations.SampleWordsDecode
  have decodes {w : Word} (i : Instr) (h : encode i = w) : decode w = .ok i := h ▸ decode_encode i
  exact ⟨decodes _ (by decide), decodes _ (by decide), decodes _ (by decide), decodes _ (by decide), decodes _ (by decide),
    decodes _ (by decide), decodes _ (by decide), decodes _ (by decide), decodes _ (by decide)⟩

end Sys2Proof

namespace Sys2Proof.Machine

/-! ### The step, by what stands at the port -/

theorem step_command {s : State} {w : Word} {rest : List HostInput} {i : Instr} (hport : s.port = .command w :: rest)
    (hdecode : decode w = .ok i) : step s = .next (effect i { s with port := rest }) := by
  obtain ⟨hempty, -⟩ | ⟨_, hreset, -⟩ | ⟨_, _, _, hword, herror, -⟩ | ⟨_, _, j, hword, hdecode', hstep⟩ := step_cases s
  · rw [hport] at hempty; cases hempty
  · rw [hport] at hreset; cases hreset
  · rw [hport] at hword; cases hword; rw [hdecode] at herror; cases herror
  · rw [hport] at hword; cases hword; rw [hdecode] at hdecode'; cases hdecode'; exact hstep

theorem step_reset {s : State} {rest : List HostInput} (hport : s.port = .reset :: rest) :
    step s = .next (({ s with port := rest } : State).takeReset Config.spec) := by
  obtain ⟨hempty, -⟩ | ⟨_, hreset, hstep⟩ | ⟨_, _, _, hword, -, -⟩ | ⟨_, _, _, hword, -, -⟩ := step_cases s
  · rw [hport] at hempty; cases hempty
  · rw [hport] at hreset; cases hreset; exact hstep
  · rw [hport] at hword; cases hword
  · rw [hport] at hword; cases hword

theorem step_waiting {s : State} (hport : s.port = []) : step s = .next s := by
  obtain ⟨-, hstep⟩ | ⟨_, hreset, -⟩ | ⟨_, _, _, hword, -, -⟩ | ⟨_, _, _, hword, -, -⟩ := step_cases s
  · exact hstep
  · rw [hport] at hreset; cases hreset
  · rw [hport] at hword; cases hword
  · rw [hport] at hword; cases hword

/-- Settles O6, by the rule of a command word at the port. -/
theorem stepRunsTheDecodedCommand : Obligations.StepRunsTheDecodedCommand := by
  unfold Obligations.StepRunsTheDecodedCommand
  intro s w rest i hport hdecode
  rw [step_command hport hdecode, exec_eq_next]

/-- Settles O8, by the rules of a reset pulse and of an empty port. -/
theorem resetLeavesTheStatedValues : Obligations.ResetLeavesTheStatedValues := by
  unfold Obligations.ResetLeavesTheStatedValues
  refine ⟨fun s rest hport => ?_, fun s hport => step_waiting hport, rfl, by decide, rfl, rfl⟩
  rw [step_reset hport]
  rfl

/-! ### The response of a command (R84) -/

/-- `FP.BYTE` answers the `STATUS` it leaves, `IGNORED` where no frame is open (R141, R152). -/
theorem fpByteAt_resp (cfg : Config) (c : Byte) (s : State) :
    (fpByteAt cfg c s).resp =
      some ⟨if s.phase = .idle ∨ s.phase = .err then .ignored else .ok, (fpByteAt cfg c s).status.setWidth 128⟩ := by
  cases h : s.phase with
  | idle => rw [fpByteAt_idle cfg c h]; rfl
  | lenPrefix => rw [fpByteAt_lenPrefix cfg c h]; rfl
  | header => rw [fpByteAt_header cfg c h]; rfl
  | payload => rw [fpByteAt_payload cfg c h]; rfl
  | trailer => rw [fpByteAt_trailer cfg c h]; rfl
  | done => rw [fpByteAt_done cfg c h]; rfl
  | err => rw [fpByteAt_err cfg c h]; rfl

/-- `FP.END` answers the `STATUS` it leaves, `IGNORED` where no frame is open (R150). -/
theorem fpEndAt_resp (s : State) :
    (fpEndAt s).resp =
      some ⟨if s.phase = .idle ∨ s.phase = .err then .ignored else .ok, (fpEndAt s).status.setWidth 128⟩ := by
  obtain ⟨hphase, hend⟩ | ⟨hphase, hend⟩ | ⟨hphase, hend⟩ := fpEndAt_cases s
  · rw [hend, if_neg (by obtain h | h | h | h := hphase <;> simp [h])]; rfl
  · rw [hend, if_neg (by simp [hphase])]; rfl
  · rw [hend, if_pos hphase]; rfl

/-- Every `FP` command answers the `STATUS` it leaves; `FP.START` is never ignored (R141). -/
theorem effect_resp_of_parserCommand {i : Instr} (hi : isParserCommand i = true) (s : State) :
    (effect i s).resp = some ⟨if i ≠ .fpStart ∧ (s.phase = .idle ∨ s.phase = .err) then .ignored else .ok,
      (effect i s).status.setWidth 128⟩ := by
  cases i with
  | fpStart => rw [if_neg fun h => h.1 rfl]; rfl
  | fpByte c => simpa [effect] using fpByteAt_resp Config.spec c s
  | fpEnd => simpa [effect] using fpEndAt_resp s
  | crcInit => cases hi
  | crcUpd c => cases hi
  | crcGet => cases hi
  | pdDec a b => cases hi
  | pdVal a b c => cases hi
  | rd c => cases hi

/-- Settles O38. -/
theorem fpCommandsAnswerTheStatusTheyLeave : Obligations.FpCommandsAnswerTheStatusTheyLeave := by
  unfold Obligations.FpCommandsAnswerTheStatusTheyLeave
  exact fun i s hi => ⟨effect i s, exec_eq_next i s, effect_resp_of_parserCommand hi s⟩

/-- `RD` answers `ILLEGAL` exactly for a number of no register (R170). -/
theorem readRegister_code_eq_illegal_iff (c : Byte) (s : State) :
    (s.readRegister c).code = .illegal ↔ (regOfNumber c).isSome = false := by
  cases hr : regOfNumber c with
  | none => simp [s.readRegister_of_regOfNumber_eq_none hr]
  | some r =>
    rw [← number_of_regOfNumber hr, s.readRegister_number]
    split <;> simp

/-- Every command has a response; it is `ILLEGAL` exactly for an `RD` of no register (R84, R170). -/
theorem effect_resp_exists (i : Instr) (s : State) :
    ∃ r, (effect i s).resp = some r ∧ (r.code = .illegal ↔ ∃ c, i = .rd c ∧ (regOfNumber c).isSome = false) := by
  by_cases hi : isParserCommand i = true
  · refine ⟨_, effect_resp_of_parserCommand hi s, iff_of_false ?_ ?_⟩
    · dsimp only; split <;> simp
    · rintro ⟨c, rfl, -⟩; cases hi
  · cases i with
    | rd c => exact ⟨s.readRegister c, rfl, by simp [readRegister_code_eq_illegal_iff]⟩
    | crcInit => exact ⟨_, rfl, by simp⟩
    | crcUpd c => exact ⟨_, rfl, by simp⟩
    | crcGet => exact ⟨_, rfl, by simp⟩
    | pdDec a b => exact ⟨_, rfl, by simp⟩
    | pdVal a b c => exact ⟨_, rfl, by simp⟩
    | fpStart => exact absurd rfl hi
    | fpByte c => exact absurd rfl hi
    | fpEnd => exact absurd rfl hi

/-- A word that decodes is legal unless it is an `RD` of no register. -/
theorem legalWord_eq_false_iff_of_decode {w : Word} {i : Instr} (h : decode w = .ok i) :
    legalWord w = false ↔ ∃ c, i = .rd c ∧ (regOfNumber c).isSome = false := by
  cases i <;> simp [legalWord, h]

/-- Settles O10: a word that is no command is answered `ILLEGAL`, and a command by its own rule. -/
theorem illegalIsAnsweredExactlyToIllegalWords : Obligations.IllegalIsAnsweredExactlyToIllegalWords := by
  unfold Obligations.IllegalIsAnsweredExactlyToIllegalWords
  intro s w rest hport
  cases hdecode : decode w with
  | error e =>
    have hstep := step_illegalWord hport fun i hi => by rw [hdecode] at hi; cases hi
    exact ⟨_, _, hstep, rfl, by simp [legalWord, hdecode]⟩
  | ok i =>
    obtain ⟨r, hresp, hcode⟩ := effect_resp_exists i { s with port := rest }
    exact ⟨_, r, step_command hport hdecode, hresp, hcode.trans (legalWord_eq_false_iff_of_decode hdecode).symm⟩

end Sys2Proof.Machine
end

section
/-! Proofs: the frame parser neither reads nor writes `CRC_ACC` and the port, and its outputs and registers rest on the parser registers
alone (10_state.md R32, 20_memory.md R48, R49). -/

namespace Sys2Proof.Machine

/-! ### The operations of the frame parser carry `CRC_ACC` and the port along and do not read them -/

/-- The state with the host's part replaced: the accumulator and the port. -/
def State.withHost (s : State) (acc : Word) (port : List HostInput) : State := { s with crcAcc := acc, port := port }

theorem State.headerComplete_withHost (cfg : Config) (s : State) (acc : Word) (port : List HostInput) :
    (s.withHost acc port).headerComplete cfg = (s.headerComplete cfg).withHost acc port := by
  by_cases hbounds : s.hlen.toNat < hdrMin ∨ hdrMax < s.hlen.toNat
  · rw [State.headerComplete_of_bounds cfg s hbounds, State.headerComplete_of_bounds cfg (s.withHost acc port) hbounds]
    rfl
  · obtain ⟨hmin, hmax⟩ : hdrMin ≤ s.hlen.toNat ∧ s.hlen.toNat ≤ hdrMax := by omega
    cases hdecode : decodeHeader cfg (slice s.hbuf.toList 0 s.hlen.toNat) with
    | error e =>
      rw [State.headerComplete_of_error cfg s hdecode, State.headerComplete_of_error cfg (s.withHost acc port) hdecode]
      rfl
    | ok d =>
      rw [State.headerComplete_of_ok cfg s hmin hmax hdecode,
        State.headerComplete_of_ok cfg (s.withHost acc port) hmin hmax hdecode]
      rfl

theorem State.completeIfFull_withHost (cfg : Config) (s : State) (acc : Word) (port : List HostInput) :
    (s.withHost acc port).completeIfFull cfg = (s.completeIfFull cfg).withHost acc port := by
  rw [State.completeIfFull, State.completeIfFull, State.headerComplete_withHost, apply_ite (State.withHost · acc port)]
  rfl

theorem State.payloadByte_withHost (cfg : Config) (c : Byte) (s : State) (acc : Word) (port : List HostInput) :
    (s.withHost acc port).payloadByte cfg c = (s.payloadByte cfg c).withHost acc port := by
  rw [State.payloadByte_eq, State.payloadByte_eq]
  rfl

theorem State.trailerByte_withHost (cfg : Config) (c : Byte) (s : State) (acc : Word) (port : List HostInput) :
    (s.withHost acc port).trailerByte cfg c = (s.trailerByte cfg c).withHost acc port := by
  by_cases h : s.tcnt = 3#3
  · rw [State.trailerByte_of_eq cfg c s h, State.trailerByte_of_eq cfg c (s.withHost acc port) h,
      apply_ite (State.withHost · acc port)]
    rfl
  · rw [State.trailerByte_of_ne cfg c s h, State.trailerByte_of_ne cfg c (s.withHost acc port) h]
    rfl

theorem fpByteAt_withHost (cfg : Config) (c : Byte) (s : State) (acc : Word) (port : List HostInput) :
    fpByteAt cfg c (s.withHost acc port) = (fpByteAt cfg c s).withHost acc port := by
  cases h : s.phase with
  | idle => rw [fpByteAt_idle cfg c h, fpByteAt_idle cfg c (s := s.withHost acc port) h]; rfl
  | lenPrefix =>
    rw [fpByteAt_lenPrefix cfg c h, fpByteAt_lenPrefix cfg c (s := s.withHost acc port) h]
    exact congrArg (State.respondStatus · .ok) (State.completeIfFull_withHost cfg
      { s.quiet with hlen := c, hcnt := 0#8, phase := .header } acc port)
  | header =>
    rw [fpByteAt_header cfg c h, fpByteAt_header cfg c (s := s.withHost acc port) h]
    exact congrArg (State.respondStatus · .ok) (State.completeIfFull_withHost cfg
      { s.quiet with hbuf := s.hbuf.setIfInBounds s.hcnt.toNat c, hcnt := s.hcnt + 1#8 } acc port)
  | payload =>
    rw [fpByteAt_payload cfg c h, fpByteAt_payload cfg c (s := s.withHost acc port) h]
    exact congrArg (State.respondStatus · .ok) (State.payloadByte_withHost cfg c s.quiet acc port)
  | trailer =>
    rw [fpByteAt_trailer cfg c h, fpByteAt_trailer cfg c (s := s.withHost acc port) h]
    exact congrArg (State.respondStatus · .ok) (State.trailerByte_withHost cfg c s.quiet acc port)
  | done => rw [fpByteAt_done cfg c h, fpByteAt_done cfg c (s := s.withHost acc port) h]; rfl
  | err => rw [fpByteAt_err cfg c h, fpByteAt_err cfg c (s := s.withHost acc port) h]; rfl

theorem fpEndAt_withHost (s : State) (acc : Word) (port : List HostInput) :
    fpEndAt (s.withHost acc port) = (fpEndAt s).withHost acc port := by
  obtain ⟨hphase, hend⟩ | ⟨hphase, hend⟩ | ⟨hphase, hend⟩ := fpEndAt_cases s
  · rw [hend]; exact fpEndAt_inProgress hphase
  · rw [hend]; exact fpEndAt_done hphase
  · rw [hend]; exact fpEndAt_ignored hphase

theorem effect_withHost {i : Instr} (hi : isParserCommand i = true) (s : State) (acc : Word) (port : List HostInput) :
    effect i (s.withHost acc port) = (effect i s).withHost acc port := by
  cases i with
  | fpStart => rfl
  | fpByte c => exact fpByteAt_withHost Config.spec c s acc port
  | fpEnd => exact fpEndAt_withHost s acc port
  | crcInit => cases hi
  | crcUpd c => cases hi
  | crcGet => cases hi
  | pdDec a b => cases hi
  | pdVal a b c => cases hi
  | rd c => cases hi

/-! ### What each group of commands leaves unchanged (R32) -/

/-- The byte command, at any choice of parameters, leaves `CRC_ACC` and the port. -/
theorem fpByteAt_host (cfg : Config) (c : Byte) (s : State) :
    (fpByteAt cfg c s).crcAcc = s.crcAcc ∧ (fpByteAt cfg c s).port = s.port := by
  have h : fpByteAt cfg c s = (fpByteAt cfg c s).withHost s.crcAcc s.port := fpByteAt_withHost cfg c s s.crcAcc s.port
  rw [h]
  exact ⟨rfl, rfl⟩

/-- An operation that carries the host's part along leaves it unchanged. -/
theorem effect_host_of_parserCommand {i : Instr} (hi : isParserCommand i = true) (s : State) :
    (effect i s).crcAcc = s.crcAcc ∧ (effect i s).port = s.port := by
  have h : effect i s = (effect i s).withHost s.crcAcc s.port := effect_withHost hi s s.crcAcc s.port
  rw [h]
  exact ⟨rfl, rfl⟩

theorem effect_port (i : Instr) (s : State) : (effect i s).port = s.port := by
  by_cases hi : isParserCommand i = true
  · exact (effect_host_of_parserCommand hi s).2
  · cases i with
    | fpStart => exact absurd rfl hi
    | fpByte c => exact absurd rfl hi
    | fpEnd => exact absurd rfl hi
    | _ => rfl

theorem effect_crcAcc {i : Instr} (hi : isCrcCommand i = false) (s : State) : (effect i s).crcAcc = s.crcAcc := by
  cases i with
  | fpStart => rfl
  | fpByte c => exact (effect_host_of_parserCommand (i := .fpByte c) rfl s).1
  | fpEnd => exact (effect_host_of_parserCommand (i := .fpEnd) rfl s).1
  | pdDec a b => rfl
  | pdVal a b c => rfl
  | rd c => rfl
  | _ => cases hi

theorem State.sameParser_refl (s : State) : s.sameParser s := ⟨rfl, rfl, rfl, rfl, rfl, rfl, rfl, rfl, rfl, rfl, rfl, rfl, rfl, rfl⟩

/-- Two states with the same parser registers differ in the host's part and the outputs only. -/
theorem State.sameParser_iff (s t : State) :
    s.sameParser t ↔ t = ({ s with resp := t.resp, pay := t.pay } : State).withHost t.crcAcc t.port := by
  obtain ⟨⟩ := s
  obtain ⟨⟩ := t
  simp only [State.sameParser, State.withHost, State.mk.injEq, true_and, and_true]
  constructor
  · rintro ⟨rfl, rfl, rfl, rfl, rfl, rfl, rfl, rfl, rfl, rfl, rfl, rfl, rfl, rfl⟩
    simp
  · rintro ⟨rfl, rfl, rfl, rfl, rfl, rfl, rfl, rfl, rfl, rfl, rfl, rfl, rfl, rfl⟩
    simp

theorem State.sameParser_symm {s t : State} (h : s.sameParser t) : t.sameParser s := by
  obtain ⟨h₁, h₂, h₃, h₄, h₅, h₆, h₇, h₈, h₉, h₁₀, h₁₁, h₁₂, h₁₃, h₁₄⟩ := h
  exact ⟨h₁.symm, h₂.symm, h₃.symm, h₄.symm, h₅.symm, h₆.symm, h₇.symm, h₈.symm, h₉.symm, h₁₀.symm, h₁₁.symm, h₁₂.symm, h₁₃.symm,
    h₁₄.symm⟩

theorem State.sameParser_trans {s t u : State} (h : s.sameParser t) (h' : t.sameParser u) : s.sameParser u := by
  rw [(State.sameParser_iff s t).1 h] at h'
  exact h'

/-- `CRC`, `PD` and `RD` commands write no parser register (R106 to R108, R125, R126, R170). -/
theorem effect_sameParser {i : Instr} (hi : isParserCommand i = false) (s : State) : (effect i s).sameParser s := by
  cases i with
  | fpStart => cases hi
  | fpByte c => cases hi
  | fpEnd => cases hi
  | _ => exact s.sameParser_refl

/-- What an `FP` command does, it does from the parser registers: the same registers, response and `pay` from the same registers. -/
theorem effect_congr_sameParser {i : Instr} (hi : isParserCommand i = true) {s t : State} (h : s.sameParser t) :
    (effect i s).sameParser (effect i t) ∧ (effect i s).resp = (effect i t).resp ∧ (effect i s).pay = (effect i t).pay := by
  rw [(State.sameParser_iff s t).1 h, effect_withHost hi, effect_outputs i s t.resp t.pay]
  exact ⟨State.sameParser_refl _, rfl, rfl⟩

theorem isCrcCommand_of_parserCommand {i : Instr} (hi : isParserCommand i = true) : isCrcCommand i = false := by
  cases i with
  | crcInit => cases hi
  | crcUpd c => cases hi
  | crcGet => cases hi
  | _ => rfl

theorem isParserCommand_of_crcCommand {i : Instr} (hi : isCrcCommand i = true) : isParserCommand i = false := by
  cases i with
  | crcInit => rfl
  | crcUpd c => rfl
  | crcGet => rfl
  | _ => cases hi

/-! ### The statements -/

/-- Settles O9. -/
theorem everyCommandCompletesWithAResponse : Obligations.EveryCommandCompletesWithAResponse := by
  unfold Obligations.EveryCommandCompletesWithAResponse
  intro i s
  obtain ⟨r, hresp, -⟩ := effect_resp_exists i s
  exact ⟨effect i s, r, exec_eq_next i s, hresp, effect_port i s⟩

/-- `FP.END` writes `PHASE` and `ERR` and no other parser register (R150). -/
theorem fpEndAt_sameParser (s : State) : State.sameParser { fpEndAt s with phase := s.phase, err := s.err } s := by
  obtain ⟨-, hend⟩ | ⟨-, hend⟩ | ⟨-, hend⟩ := fpEndAt_cases s
  · rw [hend]; exact s.sameParser_refl
  · rw [hend]; exact s.sameParser_refl
  · rw [hend]; exact s.sameParser_refl

/-- Settles O47, from what each group of commands leaves unchanged. -/
theorem registersAreWrittenByTheirCommandsOnly : Obligations.RegistersAreWrittenByTheirCommandsOnly := by
  unfold Obligations.RegistersAreWrittenByTheirCommandsOnly
  intro i s
  refine ⟨effect i s, exec_eq_next i s, effect_port i s, fun hinit hupd => ?_, fun hi => effect_sameParser hi s, ?_⟩
  · cases hcrc : isCrcCommand i with
    | false => exact effect_crcAcc hcrc s
    | true =>
      cases i with
      | crcInit => exact absurd rfl hinit
      | crcUpd c => exact absurd rfl (hupd c)
      | crcGet => rfl
      | _ => cases hcrc
  · rintro rfl
    exact fpEndAt_sameParser s

/-- A `CRC` command reads and writes `CRC_ACC` alone: it gives the same response and accumulator from the same accumulator. -/
theorem effect_congr_crcAcc {i : Instr} (hi : isCrcCommand i = true) {s t : State} (h : s.crcAcc = t.crcAcc) :
    (effect i s).crcAcc = (effect i t).crcAcc ∧ (effect i s).resp = (effect i t).resp ∧ (effect i s).pay = (effect i t).pay := by
  cases i with
  | crcInit => exact ⟨rfl, rfl, rfl⟩
  | crcUpd c => rw [effect_crcUpd, effect_crcUpd, h]; exact ⟨rfl, rfl, rfl⟩
  | crcGet => rw [effect_crcGet, effect_crcGet, h]; exact ⟨rfl, rfl, rfl⟩
  | _ => cases hi

/-- Over a command sequence the parser is what its `FP` commands alone leave. -/
theorem runInstrs_filter_parser (prog : List Instr) {s s' : State} (h : s.sameParser s') :
    ∃ t u, runInstrs prog s = .next t ∧ runInstrs (prog.filter isParserCommand) s' = .next u ∧ t.sameParser u := by
  induction prog generalizing s s' with
  | nil => exact ⟨s, s', rfl, rfl, h⟩
  | cons i rest ih =>
    rw [runInstrs_cons]
    by_cases hi : isParserCommand i = true
    · rw [List.filter_cons_of_pos hi, runInstrs_cons]
      exact ih (effect_congr_sameParser hi h).1
    · rw [List.filter_cons_of_neg hi]
      exact ih (State.sameParser_trans (effect_sameParser (Bool.eq_false_iff.2 hi) s) h)

/-- Over a command sequence `CRC_ACC` is what its `CRC` commands alone leave. -/
theorem runInstrs_filter_crc (prog : List Instr) {s s' : State} (h : s.crcAcc = s'.crcAcc) :
    ∃ t v, runInstrs prog s = .next t ∧ runInstrs (prog.filter isCrcCommand) s' = .next v ∧ t.crcAcc = v.crcAcc := by
  induction prog generalizing s s' with
  | nil => exact ⟨s, s', rfl, rfl, h⟩
  | cons i rest ih =>
    rw [runInstrs_cons]
    by_cases hi : isCrcCommand i = true
    · rw [List.filter_cons_of_pos hi, runInstrs_cons]
      exact ih (effect_congr_crcAcc hi h).1
    · rw [List.filter_cons_of_neg hi]
      exact ih ((effect_crcAcc (Bool.eq_false_iff.2 hi) s).trans h)

/-- Settles O48: each command finds its own registers as the other left them, that is, unchanged. -/
theorem readerAndWriterDoNotDisturbEachOther : Obligations.ReaderAndWriterDoNotDisturbEachOther := by
  unfold Obligations.ReaderAndWriterDoNotDisturbEachOther
  refine ⟨fun i j s hi hj => ?_, fun prog s => ?_⟩
  · have hi' := isParserCommand_of_crcCommand hi
    have hj' := isCrcCommand_of_parserCommand hj
    obtain ⟨hparser, hresp, hpay⟩ := effect_congr_sameParser hj (effect_sameParser hi' s)
    obtain ⟨hacc, hresp', hpay'⟩ := effect_congr_crcAcc hi (effect_crcAcc hj' s).symm
    refine ⟨_, _, _, _, exec_eq_next i s, exec_eq_next j _, exec_eq_next j s, exec_eq_next i _, ⟨?_, ?_⟩, hresp', hpay', hresp, hpay⟩
    · exact (effect_crcAcc hj' _).trans hacc
    · exact State.sameParser_trans hparser (State.sameParser_symm (effect_sameParser hi' _))
  · obtain ⟨t, u, hrun, hparserRun, hparser⟩ := runInstrs_filter_parser prog s.sameParser_refl
    obtain ⟨t', v, hrun', hcrcRun, hacc⟩ := runInstrs_filter_crc prog (rfl : s.crcAcc = s.crcAcc)
    cases hrun.symm.trans hrun'
    exact ⟨t, u, v, hrun, hparserRun, hcrcRun, hparser, hacc⟩

/-- `FP.START` leaves the same parser registers and gives the same outputs from any two states (R142). -/
theorem effect_fpStart_sameParser (s t : State) :
    (effect .fpStart s).sameParser (effect .fpStart t) ∧ (effect .fpStart s).resp = (effect .fpStart t).resp ∧
    (effect .fpStart s).pay = (effect .fpStart t).pay := by
  rw [effect_fpStart, effect_fpStart]
  exact ⟨State.sameParser_refl _, rfl, rfl⟩

/-- From the same parser registers, `FP` commands give the same outputs and leave the same parser registers. -/
theorem runInstrs_congr_sameParser (prog : List Instr) (hprog : ∀ i ∈ prog, isParserCommand i = true) {s s' : State}
    (h : s.sameParser s') :
    outputs prog s = outputs prog s' ∧ ∃ t t', runInstrs prog s = .next t ∧ runInstrs prog s' = .next t' ∧ t.sameParser t' := by
  induction prog generalizing s s' with
  | nil => exact ⟨rfl, s, s', rfl, rfl, h⟩
  | cons i rest ih =>
    obtain ⟨hparser, hresp, hpay⟩ := effect_congr_sameParser (hprog i List.mem_cons_self) h
    obtain ⟨houtputs, hrun⟩ := ih (fun j hj => hprog j (List.mem_cons_of_mem i hj)) hparser
    rw [outputs_cons, outputs_cons, hresp, hpay, houtputs, runInstrs_cons, runInstrs_cons]
    exact ⟨rfl, hrun⟩

theorem isParserCommand_of_mem_feed_end {raw : List Byte} {i : Instr} (h : i ∈ fpFeed raw ++ [.fpEnd]) :
    isParserCommand i = true := by
  simp only [fpFeed, List.mem_append, List.mem_map, List.mem_singleton] at h
  obtain ⟨c, -, rfl⟩ | rfl := h
  · rfl
  · rfl

/-- Settles O49: `FP.START` makes the parser registers equal, and the bytes that follow keep them so. -/
theorem nothingOfAnEarlierFrameSurvives : Obligations.NothingOfAnEarlierFrameSurvives := by
  unfold Obligations.NothingOfAnEarlierFrameSurvives
  intro raw s s'
  obtain ⟨hparser, hresp, hpay⟩ := effect_fpStart_sameParser s s'
  obtain ⟨houtputs, hrun⟩ := runInstrs_congr_sameParser (fpFeed raw ++ [.fpEnd]) (fun _ => isParserCommand_of_mem_feed_end) hparser
  rw [fpParse, outputs_cons, outputs_cons, hresp, hpay, houtputs, runInstrs_cons, runInstrs_cons]
  exact ⟨rfl, hrun⟩

end Sys2Proof.Machine
end

section
/-! Proofs: the presence table, the header encoder against the decoder, and the four parts of a frame that `parseFrame` reads
(41_presence.md R123, R128, R129; 30_encoding.md R60 to R76; 42_frame_parser.md R140). -/

namespace Sys2Proof.Machine

/-! ### Presence (R122, R123) -/

/-- Settles O20: each predicate is an equality of bytes. -/
theorem presenceIsTheFourRowTable : Obligations.PresenceIsTheFourRowTable := by
  unfold Obligations.PresenceIsTheFourRowTable
  intro cfg mt pr
  refine ⟨fun hm hp => ?_, fun hm hp => ?_, fun hm hp => ?_, fun hm hp => ?_⟩
  · simp [presence, isBroadcast, isDatagram, hm, hp, hdrBase]
  · simp [presence, isBroadcast, isDatagram, hm, hp, hdrBase, seqLen]
  · simp [presence, isBroadcast, isDatagram, hm, hp, hdrBase, recvLen]
  · simp [presence, isBroadcast, isDatagram, hm, hp, hdrBase, recvLen, seqLen]

/-- The four lengths of R123. -/
theorem presence_len_mem (cfg : Config) (mt pr : Byte) : (presence cfg mt pr).len ∈ [52, 56, 68, 72] := by
  simp only [presence, hdrBase, recvLen, seqLen]
  split <;> split <;> decide

/-- Settles O24: a header that decodes has the length its control bytes imply. -/
theorem onlyFourHeaderLengthsDecode : Obligations.OnlyFourHeaderLengthsDecode := by
  unfold Obligations.OnlyFourHeaderLengthsDecode
  intro cfg hb d hdecode
  obtain ⟨-, -, hlen, -⟩ := decodeHeader_ok hdecode
  exact hlen ▸ presence_len_mem cfg _ _

/-! ### Reading a byte sequence where its parts are known -/

theorem slice_append {x y z : List Byte} {i j : Nat} (hi : x.length = i) (hj : i + y.length = j) :
    slice (x ++ y ++ z) i j = y := by
  subst hi hj
  simp [slice]

theorem memRead_append {x y z : List Byte} {off n : Nat} (hoff : x.length = off) (hn : y.length = n) :
    memRead (x ++ y ++ z) off n = y :=
  slice_append hoff (congrArg (off + ·) hn)

/-- A register of `n` bytes comes back from its bytes (R7). -/
theorem ofNat_beNat_beBytes (n : Nat) (x : BitVec (8 * n)) : BitVec.ofNat (8 * n) (beNat (beBytes n x.toNat)) = x := by
  have hlt : x.toNat < 256 ^ n := by rw [show 256 = 2 ^ 8 from rfl, ← pow_mul]; exact x.isLt
  rw [beNat_beBytes, Nat.mod_eq_of_lt hlt, BitVec.ofNat_toNat, BitVec.setWidth_eq]

/-! ### The fixed bytes of an encoded header (R62) -/

@[simp] theorem length_fixedHeader (cfg : Config) (h : Header) : (fixedHeader cfg h).length = 52 := by simp [fixedHeader]

theorem fixedHeader_slices (cfg : Config) (h : Header) (rest : List Byte) :
    slice (fixedHeader cfg h ++ rest) 0 16 = beBytes 16 h.id.toNat ∧
    slice (fixedHeader cfg h ++ rest) 16 32 = beBytes 16 h.sender.toNat ∧
    slice (fixedHeader cfg h ++ rest) 32 40 = beBytes 8 h.timestamp.toNat ∧
    slice (fixedHeader cfg h ++ rest) 40 48 = beBytes 8 h.length.toNat := by
  have split₀ (a b c d e : List Byte) : a ++ b ++ c ++ d ++ e ++ rest = [] ++ a ++ (b ++ c ++ d ++ e ++ rest) := by simp
  have split₁ (a b c d e : List Byte) : a ++ b ++ c ++ d ++ e ++ rest = a ++ b ++ (c ++ d ++ e ++ rest) := by simp
  have split₂ (a b c d e : List Byte) : a ++ b ++ c ++ d ++ e ++ rest = a ++ b ++ c ++ (d ++ e ++ rest) := by simp
  have split₃ (a b c d e : List Byte) : a ++ b ++ c ++ d ++ e ++ rest = a ++ b ++ c ++ d ++ (e ++ rest) := by simp
  refine ⟨?_, ?_, ?_, ?_⟩
  · rw [fixedHeader, split₀]; exact slice_append (by simp) (by simp)
  · rw [fixedHeader, split₁]; exact slice_append (by simp) (by simp)
  · rw [fixedHeader, split₂]; exact slice_append (by simp) (by simp)
  · rw [fixedHeader, split₃]; exact slice_append (by simp) (by simp)

/-- The control bytes stand at the offsets 48 to 51. -/
theorem byteAt_fixedHeader (cfg : Config) (h : Header) (rest : List Byte) {o : Nat} (ho : o ∈ [48, 49, 50, 51]) :
    byteAt (fixedHeader cfg h ++ rest) o = controlByte cfg h o := by
  have hfront : (beBytes 16 h.id.toNat ++ beBytes 16 h.sender.toNat ++ beBytes 8 h.timestamp.toNat ++
      beBytes 8 h.length.toNat).length = 48 := by simp
  rw [byteAt, fixedHeader, List.append_assoc, List.getD_append_right _ _ _ _ (by rw [hfront]; revert ho; simp; omega), hfront]
  simp only [List.mem_cons, List.not_mem_nil, or_false] at ho
  obtain rfl | rfl | rfl | rfl := ho <;> rfl

/-- At each of its offsets a well-formed choice of parameters puts the field named for it. -/
theorem controlByte_of_wf {cfg : Config} (hwf : cfg.wf = true) (h : Header) :
    controlByte cfg h cfg.offFlags = h.flags ∧ controlByte cfg h cfg.offMsgType = h.msgType ∧
    controlByte cfg h cfg.offRouter = h.router ∧ controlByte cfg h cfg.offProtocol = h.protocol := by
  simp only [Config.wf, Bool.and_eq_true, decide_eq_true_eq] at hwf
  obtain ⟨⟨-, hnodup⟩, -⟩ := hwf
  simp only [List.nodup_cons, List.mem_cons, List.not_mem_nil, or_false, not_or] at hnodup
  obtain ⟨⟨hfm, hfr, hfp⟩, ⟨hmr, hmp⟩, hrp, -⟩ := hnodup
  refine ⟨?_, ?_, ?_, ?_⟩
  · exact if_pos rfl
  · rw [controlByte, if_neg (Ne.symm hfm), if_pos rfl]
  · rw [controlByte, if_neg (Ne.symm hfr), if_neg (Ne.symm hmr), if_pos rfl]
  · rw [controlByte, if_neg (Ne.symm hfp), if_neg (Ne.symm hmp), if_neg (Ne.symm hrp)]

theorem offsets_of_wf {cfg : Config} (hwf : cfg.wf = true) :
    cfg.offFlags ∈ [48, 49, 50, 51] ∧ cfg.offMsgType ∈ [48, 49, 50, 51] ∧ cfg.offRouter ∈ [48, 49, 50, 51] ∧
    cfg.offProtocol ∈ [48, 49, 50, 51] := by
  simp only [Config.wf, Bool.and_eq_true, decide_eq_true_eq] at hwf
  obtain ⟨⟨⟨⟨⟨hflags, hmsgType⟩, hrouter⟩, hprotocol⟩, -⟩, -⟩ := hwf
  exact ⟨hflags, hmsgType, hrouter, hprotocol⟩

/-- The four control bytes of an encoded header, where the decoder looks for them. -/
theorem byteAt_fixedHeader_of_wf {cfg : Config} (hwf : cfg.wf = true) (h : Header) (rest : List Byte) :
    byteAt (fixedHeader cfg h ++ rest) cfg.offFlags = h.flags ∧
    byteAt (fixedHeader cfg h ++ rest) cfg.offMsgType = h.msgType ∧
    byteAt (fixedHeader cfg h ++ rest) cfg.offRouter = h.router ∧
    byteAt (fixedHeader cfg h ++ rest) cfg.offProtocol = h.protocol := by
  obtain ⟨oflags, omsgType, orouter, oprotocol⟩ := offsets_of_wf hwf
  obtain ⟨cflags, cmsgType, crouter, cprotocol⟩ := controlByte_of_wf hwf h
  exact ⟨(byteAt_fixedHeader cfg h rest oflags).trans cflags, (byteAt_fixedHeader cfg h rest omsgType).trans cmsgType,
    (byteAt_fixedHeader cfg h rest orouter).trans crouter, (byteAt_fixedHeader cfg h rest oprotocol).trans cprotocol⟩

/-! ### The optional blocks (R63) -/

theorem length_optionalBlocks (cfg : Config) (recv seq : Bool) (h : Header) :
    (optionalBlocks cfg recv seq h).length = (if recv then recvLen else 0) + (if seq then seqLen else 0) := by
  cases hf : cfg.receiverFirst <;> cases recv <;> cases seq <;> simp [optionalBlocks, hf, recvLen, seqLen]

/-- The decoder's offset of the `Receiver` block, when there is one, is where the encoder puts it. -/
theorem slice_receiver (cfg : Config) (seq : Bool) (n : Nat) (h : Header) :
    slice (fixedHeader cfg h ++ optionalBlocks cfg true seq h) (recvOffset cfg ⟨true, seq, n⟩)
      (recvOffset cfg ⟨true, seq, n⟩ + recvLen) = beBytes 16 h.receiver.toNat := by
  cases hf : cfg.receiverFirst with
  | true =>
    simp only [optionalBlocks, recvOffset, hf, if_true, recvLen, ← List.append_assoc]
    exact slice_append (by simp [hdrBase]) (by simp)
  | false =>
    simp only [optionalBlocks, recvOffset, hf, if_true, if_false, recvLen, seqLen, Bool.false_eq_true]
    rw [← List.append_nil (fixedHeader cfg h ++ _), ← List.append_assoc]
    exact slice_append (by cases seq <;> simp [hdrBase]) (by simp)

/-- The decoder's offset of the `Sequence` block, when there is one, is where the encoder puts it. -/
theorem slice_sequence (cfg : Config) (recv : Bool) (n : Nat) (h : Header) :
    slice (fixedHeader cfg h ++ optionalBlocks cfg recv true h) (seqOffset cfg ⟨recv, true, n⟩)
      (seqOffset cfg ⟨recv, true, n⟩ + seqLen) = beBytes 4 h.sequence.toNat := by
  cases hf : cfg.receiverFirst with
  | true =>
    simp only [optionalBlocks, seqOffset, hf, if_true, recvLen, seqLen]
    rw [← List.append_nil (fixedHeader cfg h ++ _), ← List.append_assoc]
    exact slice_append (by cases recv <;> simp [hdrBase]) (by simp)
  | false =>
    simp only [optionalBlocks, seqOffset, hf, if_true, if_false, recvLen, seqLen, Bool.false_eq_true, ← List.append_assoc]
    exact slice_append (by simp [hdrBase]) (by simp)

/-! ### The decoder on an encoded header (R129) -/

theorem fillTimestamp_controls (now : Dword) (h : Header) :
    (fillTimestamp now h).msgType = h.msgType ∧ (fillTimestamp now h).protocol = h.protocol ∧
    (fillTimestamp now h).length = h.length ∧ (fillTimestamp now h).receiver = h.receiver ∧
    (fillTimestamp now h).sequence = h.sequence := by
  unfold fillTimestamp
  split
  · exact ⟨rfl, rfl, rfl, rfl, rfl⟩
  · exact ⟨rfl, rfl, rfl, rfl, rfl⟩

/-- The bytes of the reference encoder, under the presence the decoder will find. -/
theorem length_encoded (cfg : Config) (h : Header) :
    (fixedHeader cfg h ++ optionalBlocks cfg (isBroadcast cfg h.msgType) (isDatagram cfg h.protocol) h).length =
      (presence cfg h.msgType h.protocol).len := by
  rw [List.length_append, length_fixedHeader, length_optionalBlocks, presence, ← Nat.add_assoc]
  rfl

/-- Each field is read from the slice it was written to. -/
theorem headerFields_encoded {cfg : Config} (hwf : cfg.wf = true) (h : Header) :
    headerFields cfg (presence cfg h.msgType h.protocol)
      (fixedHeader cfg h ++ optionalBlocks cfg (isBroadcast cfg h.msgType) (isDatagram cfg h.protocol) h) =
    asDecoded cfg h := by
  obtain ⟨hid, hsender, htimestamp, hlength⟩ := fixedHeader_slices cfg h
    (optionalBlocks cfg (isBroadcast cfg h.msgType) (isDatagram cfg h.protocol) h)
  obtain ⟨hflags, hmsgType, hrouter, hprotocol⟩ := byteAt_fixedHeader_of_wf hwf h
    (optionalBlocks cfg (isBroadcast cfg h.msgType) (isDatagram cfg h.protocol) h)
  simp only [headerFields, asDecoded, hid, hsender, htimestamp, hlength, hflags, hmsgType, hrouter, hprotocol]
  congr 1
  · exact ofNat_beNat_beBytes 16 h.id
  · exact ofNat_beNat_beBytes 16 h.sender
  · refine ite_congr rfl (fun (hr : isBroadcast cfg h.msgType = true) => ?_) fun _ => rfl
    rw [hr]
    exact (congrArg (BitVec.ofNat 128 <| beNat ·) (slice_receiver cfg _ (presence cfg h.msgType h.protocol).len h)).trans
      (ofNat_beNat_beBytes 16 h.receiver)
  · exact ofNat_beNat_beBytes 8 h.timestamp
  · exact ofNat_beNat_beBytes 8 h.length
  · refine ite_congr rfl (fun (hs : isDatagram cfg h.protocol = true) => ?_) fun _ => rfl
    rw [hs]
    exact (congrArg (BitVec.ofNat 32 <| beNat ·) (slice_sequence cfg _ (presence cfg h.msgType h.protocol).len h)).trans
      (ofNat_beNat_beBytes 4 h.sequence)

theorem decodeHeader_encoded {cfg : Config} (hwf : cfg.wf = true) (h : Header) :
    decodeHeader cfg (fixedHeader cfg h ++ optionalBlocks cfg (isBroadcast cfg h.msgType) (isDatagram cfg h.protocol) h) =
      .ok ⟨asDecoded cfg h, isBroadcast cfg h.msgType, isDatagram cfg h.protocol⟩ := by
  obtain ⟨-, hmsgType, -, hprotocol⟩ := byteAt_fixedHeader_of_wf hwf h
    (optionalBlocks cfg (isBroadcast cfg h.msgType) (isDatagram cfg h.protocol) h)
  rw [decodeHeader_eq_ite cfg _ (presence cfg h.msgType h.protocol) (by rw [hmsgType, hprotocol]),
    if_pos (length_encoded cfg h).symm, headerFields_encoded hwf]
  rfl

/-- Settles O26: the encoder writes the header with its timestamp filled in, whose control bytes are those of the header. -/
theorem decodeHeaderOfEncodeHeader : Obligations.DecodeHeaderOfEncodeHeader := by
  unfold Obligations.DecodeHeaderOfEncodeHeader
  intro cfg h now hwf
  obtain ⟨hmsgType, hprotocol, -⟩ := fillTimestamp_controls now h
  refine ⟨_, rfl, ?_, ?_⟩
  · rw [← hmsgType, ← hprotocol]
    exact length_encoded cfg (fillTimestamp now h)
  · rw [← hmsgType, ← hprotocol]
    exact decodeHeader_encoded hwf (fillTimestamp now h)

/-! ### The parts of a frame that `parseFrame` reads (R140) -/

/-- Fewer header bytes than the first byte announces. -/
theorem parseFrame_shortHeader (cfg : Config) {b : Byte} {rest : List Byte} (h : rest.length < b.toNat) :
    parseFrame cfg (b :: rest) = .error .truncatedFrame := by
  rw [parseFrame, if_pos (by rw [List.length_cons, prefixLen]; omega)]

/-- The header bytes of a frame are what the header decoder is given. -/
theorem memRead_header {b : Byte} {hb : List Byte} (body : List Byte) (hlen : hb.length = b.toNat) :
    ¬ (b :: (hb ++ body)).length < prefixLen + b.toNat ∧ memRead (b :: (hb ++ body)) 1 b.toNat = hb := by
  refine ⟨?_, memRead_append (x := [b]) rfl hlen⟩
  rw [List.length_cons, List.length_append, prefixLen]
  omega

theorem parseFrame_badHeader (cfg : Config) {b : Byte} {hb : List Byte} (body : List Byte) {e : ErrorKind}
    (hlen : hb.length = b.toNat) (hdecode : decodeHeader cfg hb = .error e) :
    parseFrame cfg (b :: (hb ++ body)) = .error .decodeError := by
  obtain ⟨hfull, hread⟩ := memRead_header body hlen
  rw [parseFrame, if_neg hfull, hread, hdecode, decodeHeader_error hdecode]

/-- With a header that decodes, a frame is decided by its body. -/
theorem parseFrame_goodHeader (cfg : Config) {b : Byte} {hb : List Byte} (body : List Byte) {d : Decoded}
    (hlen : hb.length = b.toNat) (hdecode : decodeHeader cfg hb = .ok d) :
    parseFrame cfg (b :: (hb ++ body)) = parseBody cfg (b :: (hb ++ body)) b.toNat d := by
  obtain ⟨hfull, hread⟩ := memRead_header body hlen
  rw [parseFrame, if_neg hfull, hread, hdecode]

/-- Fewer bytes behind the header than payload and trailer need. -/
theorem parseFrame_shortBody (cfg : Config) {b : Byte} {hb body : List Byte} {d : Decoded} (hlen : hb.length = b.toNat)
    (hdecode : decodeHeader cfg hb = .ok d) (hbody : body.length < d.hdr.length.toNat + 4) :
    parseFrame cfg (b :: (hb ++ body)) = .error .truncatedFrame := by
  rw [parseFrame_goodHeader cfg body hlen hdecode]
  exact if_pos (by rw [List.length_cons, List.length_append, trailerLen]; omega)

/-- A frame with all its bytes is decided by the checksum. -/
theorem parseFrame_complete (cfg : Config) {b : Byte} {hb payload trailer : List Byte} (extra : List Byte) {d : Decoded}
    (hlen : hb.length = b.toNat) (hdecode : decodeHeader cfg hb = .ok d) (hpayload : payload.length = d.hdr.length.toNat)
    (htrailer : trailer.length = 4) :
    parseFrame cfg (b :: (hb ++ (payload ++ (trailer ++ extra)))) =
      if crc32 cfg payload = BitVec.ofNat 32 (beNat trailer) then .ok ⟨d.hdr, d.recv, d.seq, payload, !extra.isEmpty⟩
      else .error .checksumMismatch := by
  have hreadPayload : memRead (b :: (hb ++ (payload ++ (trailer ++ extra)))) (1 + b.toNat) d.hdr.length.toNat = payload := by
    rw [show b :: (hb ++ (payload ++ (trailer ++ extra))) = b :: hb ++ payload ++ (trailer ++ extra) by simp]
    exact memRead_append (x := b :: hb) (by rw [List.length_cons]; omega) hpayload
  have hreadTrailer : memRead (b :: (hb ++ (payload ++ (trailer ++ extra)))) (1 + b.toNat + d.hdr.length.toNat) trailerLen =
      trailer := by
    rw [show b :: (hb ++ (payload ++ (trailer ++ extra))) = b :: (hb ++ payload) ++ trailer ++ extra by simp]
    exact memRead_append (x := b :: (hb ++ payload)) (by rw [List.length_cons, List.length_append]; omega) htrailer
  have htotal : (b :: (hb ++ (payload ++ (trailer ++ extra)))).length = 1 + b.toNat + d.hdr.length.toNat + 4 + extra.length := by
    simp only [List.length_cons, List.length_append]
    omega
  have hsurplus : decide (1 + b.toNat + d.hdr.length.toNat + 4 < 1 + b.toNat + d.hdr.length.toNat + 4 + extra.length) =
      !extra.isEmpty := by
    cases extra <;> simp
  rw [parseFrame_goodHeader cfg _ hlen hdecode]
  simp only [parseBody, hreadPayload, hreadTrailer, htotal]
  rw [if_neg (by rw [trailerLen]; omega), ite_not, trailerLen, hsurplus]

/-- What a byte sequence is to the parser: how far it reaches, and its parts so far (R60, R140). -/
inductive FrameShape (cfg : Config) : List Byte → Prop
  | empty : FrameShape cfg []
  | shortHeader (b : Byte) (rest : List Byte) (hlen : rest.length < b.toNat) : FrameShape cfg (b :: rest)
  | badHeader (b : Byte) (hb body : List Byte) (e : ErrorKind) (hlen : hb.length = b.toNat)
      (hdecode : decodeHeader cfg hb = .error e) : FrameShape cfg (b :: (hb ++ body))
  | shortPayload (b : Byte) (hb payload : List Byte) (d : Decoded) (hlen : hb.length = b.toNat)
      (hdecode : decodeHeader cfg hb = .ok d) (hpayload : payload.length < d.hdr.length.toNat) :
      FrameShape cfg (b :: (hb ++ payload))
  | shortTrailer (b : Byte) (hb payload trailer : List Byte) (d : Decoded) (hlen : hb.length = b.toNat)
      (hdecode : decodeHeader cfg hb = .ok d) (hpayload : payload.length = d.hdr.length.toNat) (htrailer : trailer.length < 4) :
      FrameShape cfg (b :: (hb ++ (payload ++ trailer)))
  | complete (b : Byte) (hb payload trailer extra : List Byte) (d : Decoded) (hlen : hb.length = b.toNat)
      (hdecode : decodeHeader cfg hb = .ok d) (hpayload : payload.length = d.hdr.length.toNat) (htrailer : trailer.length = 4) :
      FrameShape cfg (b :: (hb ++ (payload ++ (trailer ++ extra))))

/-- A sequence is cut at `n`, or has fewer bytes. -/
theorem exists_append_of_le {n : Nat} {s : List Byte} (h : n ≤ s.length) : ∃ x y, x.length = n ∧ s = x ++ y :=
  ⟨s.take n, s.drop n, List.length_take_of_le h, (List.take_append_drop n s).symm⟩

theorem frameShape (cfg : Config) (raw : List Byte) : FrameShape cfg raw := by
  cases raw with
  | nil => exact .empty
  | cons b rest =>
    rcases Nat.lt_or_ge rest.length b.toNat with hshort | hfull
    · exact .shortHeader b rest hshort
    obtain ⟨hb, body, hlen, rfl⟩ := exists_append_of_le hfull
    cases hdecode : decodeHeader cfg hb with
    | error e => exact .badHeader b hb body e hlen hdecode
    | ok d =>
      rcases Nat.lt_or_ge body.length d.hdr.length.toNat with hshort | hfull
      · exact .shortPayload b hb body d hlen hdecode hshort
      obtain ⟨payload, rest, hpayload, rfl⟩ := exists_append_of_le hfull
      rcases Nat.lt_or_ge rest.length 4 with hshort | hfull
      · exact .shortTrailer b hb payload rest d hlen hdecode hpayload hshort
      obtain ⟨trailer, extra, htrailer, rfl⟩ := exists_append_of_le hfull
      exact .complete b hb payload trailer extra d hlen hdecode hpayload htrailer

/-- What `parseFrame` accepts: the parts of the frame, and a trailer that is the code of the payload. -/
theorem parts_of_parseFrame_ok {cfg : Config} {raw : List Byte} {f : ParsedFrame} (h : parseFrame cfg raw = .ok f) :
    ∃ b hb payload trailer extra d, raw = b :: (hb ++ (payload ++ (trailer ++ extra))) ∧ hb.length = b.toNat ∧
      decodeHeader cfg hb = .ok d ∧ payload.length = d.hdr.length.toNat ∧ trailer.length = 4 ∧
      crc32 cfg payload = BitVec.ofNat 32 (beNat trailer) ∧ f = ⟨d.hdr, d.recv, d.seq, payload, !extra.isEmpty⟩ := by
  cases frameShape cfg raw with
  | empty => cases h
  | shortHeader b rest hlen => rw [parseFrame_shortHeader cfg hlen] at h; cases h
  | badHeader b hb body e hlen hdecode => rw [parseFrame_badHeader cfg body hlen hdecode] at h; cases h
  | shortPayload b hb payload d hlen hdecode hpayload =>
    rw [parseFrame_shortBody cfg hlen hdecode (by omega)] at h; cases h
  | shortTrailer b hb payload trailer d hlen hdecode hpayload htrailer =>
    rw [parseFrame_shortBody cfg hlen hdecode (by rw [List.length_append]; omega)] at h; cases h
  | complete b hb payload trailer extra d hlen hdecode hpayload htrailer =>
    rw [parseFrame_complete cfg extra hlen hdecode hpayload htrailer] at h
    split at h
    · next hcrc =>
      cases h
      exact ⟨b, hb, payload, trailer, extra, d, rfl, hlen, hdecode, hpayload, htrailer, hcrc, rfl⟩
    · cases h

/-! ### Frames as they are built (R74) -/

/-- The byte that announces the header length: it fits for every header that decodes. -/
theorem toNat_ofNat_length {hb : List Byte} (h : hb.length ≤ hdrMax) : hb.length = (BitVec.ofNat 8 hb.length).toNat := by
  rw [BitVec.toNat_ofNat, Nat.mod_eq_of_lt (Nat.lt_of_le_of_lt h (by decide))]

/-- A frame laid out around a header that decodes, with `Length` the payload's byte count, parses to its parts. -/
theorem parseFrame_layFrame {cfg : Config} {hb payload : List Byte} {d : Decoded} (hdecode : decodeHeader cfg hb = .ok d)
    (hpayload : payload.length = d.hdr.length.toNat) :
    parseFrame cfg (layFrame cfg hb payload) = .ok ⟨d.hdr, d.recv, d.seq, payload, false⟩ := by
  obtain ⟨-, hmax, -, -⟩ := decodeHeader_ok hdecode
  have hparse := parseFrame_complete cfg [] (toNat_ofNat_length hmax) hdecode hpayload
    (length_beBytes 4 (crc32 cfg payload).toNat)
  rw [List.append_nil, if_pos (ofNat_beNat_beBytes 4 (crc32 cfg payload)).symm] at hparse
  rw [layFrame, List.append_assoc]
  exact hparse

theorem length_layFrame (cfg : Config) (hb payload : List Byte) :
    (layFrame cfg hb payload).length = 1 + hb.length + payload.length + 4 := by
  simp only [layFrame, List.length_cons, List.length_append, length_beBytes, trailerLen]
  omega

/-- A builder that succeeds lays out the bytes of its encoder. -/
theorem buildUnder_ok {enc : Option Header → Dword → Except ErrorKind (List Byte)} {cfg : Config} {tr : Transport}
    {maxFrame : Nat} {h : Option Header} {payload : List Byte} {now : Dword} {frame hb : List Byte}
    (hbuild : buildUnder enc cfg tr maxFrame h payload now = .ok frame) (henc : enc (h.map (withLength payload)) now = .ok hb) :
    frame = layFrame cfg hb payload := by
  simp only [buildUnder, henc] at hbuild
  split at hbuild
  · cases hbuild
  · cases hbuild; rfl

/-- The encoder of a header, written out (R73). -/
theorem encodeHeader_eq (cfg : Config) (h : Header) (now : Dword) :
    encodeHeader cfg (some h) now = .ok (fixedHeader cfg (fillTimestamp now h) ++
      optionalBlocks cfg (isBroadcast cfg (fillTimestamp now h).msgType) (isDatagram cfg (fillTimestamp now h).protocol)
        (fillTimestamp now h)) := rfl

/-- Settles O27: the built header decodes, by the header round trip, and the frame laid out around it parses to its parts. -/
theorem parseFrameOfBuildFrame : Obligations.ParseFrameOfBuildFrame := by
  unfold Obligations.ParseFrameOfBuildFrame
  intro cfg tr maxFrame h payload now frame hwf hpayload hbuild
  obtain ⟨hb, henc, hlen, hdecode⟩ := decodeHeaderOfEncodeHeader cfg (withLength payload h) now hwf
  obtain ⟨-, -, hlength, -⟩ := fillTimestamp_controls now (withLength payload h)
  rw [buildUnder_ok hbuild henc]
  refine ⟨?_, parseFrame_layFrame hdecode ?_⟩
  · rw [length_layFrame, hlen]
    rfl
  · calc payload.length
      _ = (BitVec.ofNat 64 payload.length).toNat := by rw [BitVec.toNat_ofNat, Nat.mod_eq_of_lt hpayload]
      _ = (fillTimestamp now (withLength payload h)).length.toNat := congrArg BitVec.toNat hlength.symm

/-- In the unit's order the `Sequence` block stands last in a frame's header, four bytes before the payload. -/
theorem memRead_sequence_layFrame (h : Header) (recv : Bool) (payload : List Byte) :
    memRead (layFrame Config.spec (fixedHeader Config.spec h ++ optionalBlocks Config.spec recv true h) payload)
      (53 + if recv then 16 else 0) 4 = beBytes 4 h.sequence.toNat := by
  have hsplit (x : Byte) (fixed receiver sequence trailer : List Byte) :
      x :: (fixed ++ (receiver ++ sequence) ++ payload ++ trailer) =
        x :: (fixed ++ receiver) ++ sequence ++ (payload ++ trailer) := by simp
  rw [layFrame, show optionalBlocks Config.spec recv true h =
    (if recv then beBytes 16 h.receiver.toNat else []) ++ beBytes 4 h.sequence.toNat from rfl, hsplit]
  exact memRead_append (by cases recv <;> simp) (length_beBytes 4 _)

theorem isBroadcast_spec (mt : Byte) : isBroadcast Config.spec mt = decide (mt = 2) := rfl

/-- Settles O28: the transport's protocol is the datagram protocol, so the `Sequence` block is there. -/
theorem datagramFrameCarriesItsSequence : Obligations.DatagramFrameCarriesItsSequence := by
  unfold Obligations.DatagramFrameCarriesItsSequence
  intro h sender counter maxFrame payload now frame hbuild
  obtain ⟨hmsgType, hprotocol, -, -, hsequence⟩ :=
    fillTimestamp_controls now (withLength payload (datagramStamp Config.spec sender counter h).1)
  have hbytes := encodeHeader_eq Config.spec (withLength payload (datagramStamp Config.spec sender counter h).1) now
  rw [hmsgType, hprotocol] at hbytes
  change encodeHeader _ _ _ = .ok (_ ++ optionalBlocks Config.spec (isBroadcast Config.spec h.msgType) true _) at hbytes
  have hseq := memRead_sequence_layFrame (fillTimestamp now (withLength payload (datagramStamp Config.spec sender counter h).1))
    (isBroadcast Config.spec h.msgType) payload
  rw [hsequence] at hseq
  have hprefix : byteAt frame 0 = if h.msgType = 2 then 72 else 56 := by
    rw [buildUnder_ok hbuild hbytes]
    change BitVec.ofNat 8 _ = _
    rw [List.length_append, length_fixedHeader, length_optionalBlocks]
    by_cases hm : h.msgType = 2 <;> simp only [isBroadcast_spec, hm] <;> rfl
  refine ⟨hprefix, ?_⟩
  have hoffset : (byteAt frame 0 - 3).toNat = 53 + if isBroadcast Config.spec h.msgType then 16 else 0 := by
    rw [hprefix]
    by_cases hm : h.msgType = 2 <;> simp only [isBroadcast_spec, hm] <;> rfl
  rw [hoffset, buildUnder_ok hbuild hbytes, hseq, beNat_beBytes]
  exact Nat.mod_eq_of_lt counter.isLt

end Sys2Proof.Machine
end

section
/-! Proofs: what a byte can do to the parser, and the parser's invariant (10_state.md R31, 42_frame_parser.md R143 to R153). -/

namespace Sys2Proof.Machine

/-! ### Everything a byte can do to the parser registers, once (R143 to R149, R152) -/

/-- The parser registers after a byte, by what the parser finds. -/
inductive ByteStep (cfg : Config) (c : Byte) (s : State) : State → Prop
  | ignored (hphase : s.phase = .idle ∨ s.phase = .err) : ByteStep cfg c s s
  | lengthZero (hphase : s.phase = .lenPrefix) (hc : c = 0) :
      ByteStep cfg c s { s with hlen := 0, hcnt := 0, phase := .err, err := .decodeError }
  | length (hphase : s.phase = .lenPrefix) (hc : c ≠ 0) : ByteStep cfg c s { s with hlen := c, hcnt := 0, phase := .header }
  | headerMore (hphase : s.phase = .header) (hmore : s.hcnt + 1#8 ≠ s.hlen) :
      ByteStep cfg c s { s with hbuf := s.hbuf.setIfInBounds s.hcnt.toNat c, hcnt := s.hcnt + 1#8 }
  | headerFails (hphase : s.phase = .header) (hlast : s.hcnt + 1#8 = s.hlen)
      (hfail : s.hlen.toNat < 52 ∨ 72 < s.hlen.toNat ∨
        decodeHeader cfg ((s.hbuf.setIfInBounds s.hcnt.toNat c).toList.take s.hlen.toNat) = .error .decodeError) :
      ByteStep cfg c s
        { s with hbuf := s.hbuf.setIfInBounds s.hcnt.toNat c, hcnt := s.hcnt + 1#8, phase := .err, err := .decodeError }
  | headerDecodes (d : Decoded) (hphase : s.phase = .header) (hlast : s.hcnt + 1#8 = s.hlen) (hmin : 52 ≤ s.hlen.toNat)
      (hmax : s.hlen.toNat ≤ 72)
      (hdecode : decodeHeader cfg ((s.hbuf.setIfInBounds s.hcnt.toNat c).toList.take s.hlen.toNat) = .ok d) :
      ByteStep cfg c s
        { s with
          hbuf := s.hbuf.setIfInBounds s.hcnt.toNat c, hcnt := s.hcnt + 1#8, hdr := d.hdr, hasRecv := d.recv, hasSeq := d.seq,
          prem := d.hdr.length, phase := if d.hdr.length = 0#64 then .trailer else .payload }
  | payload (hphase : s.phase = .payload) :
      ByteStep cfg c s
        { s with
          rxCrc := crcStep cfg s.rxCrc c, payload := s.payload ++ [c], prem := s.prem - 1#64,
          phase := if s.prem = 1#64 then .trailer else .payload }
  | trailerMore (hphase : s.phase = .trailer) (hmore : s.tcnt ≠ 3#3) :
      ByteStep cfg c s { s with trailer := s.trailer.setWidth 24 ++ c, tcnt := s.tcnt + 1#3 }
  | trailerMatches (hphase : s.phase = .trailer) (hlast : s.tcnt = 3#3)
      (hcrc : s.trailer.setWidth 24 ++ c = crcFinish cfg s.rxCrc) :
      ByteStep cfg c s { s with trailer := s.trailer.setWidth 24 ++ c, tcnt := 4#3, phase := .done }
  | trailerDiffers (hphase : s.phase = .trailer) (hlast : s.tcnt = 3#3)
      (hcrc : s.trailer.setWidth 24 ++ c ≠ crcFinish cfg s.rxCrc) :
      ByteStep cfg c s
        { s with trailer := s.trailer.setWidth 24 ++ c, tcnt := 4#3, phase := .err, err := .checksumMismatch }
  | surplus (hphase : s.phase = .done) : ByteStep cfg c s { s with surplus := true }

/-- Every state has its case. -/
theorem exists_byteStep (cfg : Config) (c : Byte) (s : State) : ∃ t, ByteStep cfg c s t := by
  cases h : s.phase with
  | idle => exact ⟨_, .ignored (.inl h)⟩
  | err => exact ⟨_, .ignored (.inr h)⟩
  | done => exact ⟨_, .surplus h⟩
  | lenPrefix =>
    by_cases hc : c = 0
    · exact ⟨_, .lengthZero h hc⟩
    · exact ⟨_, .length h hc⟩
  | header =>
    by_cases hlast : s.hcnt + 1#8 = s.hlen
    · by_cases hbounds : s.hlen.toNat < 52 ∨ 72 < s.hlen.toNat
      · exact ⟨_, .headerFails h hlast (or_assoc.1 (.inl hbounds))⟩
      cases hdecode : decodeHeader cfg ((s.hbuf.setIfInBounds s.hcnt.toNat c).toList.take s.hlen.toNat) with
      | error e => exact ⟨_, .headerFails h hlast (.inr (.inr (decodeHeader_error hdecode ▸ hdecode)))⟩
      | ok d => exact ⟨_, .headerDecodes d h hlast (by omega) (by omega) hdecode⟩
    · exact ⟨_, .headerMore h hlast⟩
  | payload => exact ⟨_, .payload h⟩
  | trailer =>
    by_cases hlast : s.tcnt = 3#3
    · by_cases hcrc : s.trailer.setWidth 24 ++ c = crcFinish cfg s.rxCrc
      · exact ⟨_, .trailerMatches h hlast hcrc⟩
      · exact ⟨_, .trailerDiffers h hlast hcrc⟩
    · exact ⟨_, .trailerMore h hlast⟩

/-- Outputs apart, `FP.BYTE` does what its case says. -/
theorem ByteStep.sameParser {cfg : Config} {c : Byte} {s t : State} (h : ByteStep cfg c s t) :
    (fpByteAt cfg c s).sameParser t := by
  have happend : (s.trailer <<< 8) ||| c.setWidth 32 = s.trailer.setWidth 24 ++ c := shiftLeft_or_setWidth_eq_append s.trailer c
  cases h with
  | ignored hphase =>
    obtain hphase | hphase := hphase
    · rw [fpByteAt_idle cfg c hphase]; exact State.sameParser_refl _
    · rw [fpByteAt_err cfg c hphase]; exact State.sameParser_refl _
  | lengthZero hphase hc =>
    subst hc
    rw [fpByteAt_lenPrefix cfg 0 hphase, State.prefixByte_zero]
    exact State.sameParser_refl _
  | length hphase hc =>
    rw [fpByteAt_lenPrefix cfg c hphase, State.prefixByte_of_ne cfg c _ hc]
    exact State.sameParser_refl _
  | headerMore hphase hmore =>
    rw [fpByteAt_header cfg c hphase, State.headerByte_of_lt cfg c s.quiet hmore]
    exact State.sameParser_refl _
  | headerFails hphase hlast hfail =>
    rw [fpByteAt_header cfg c hphase, State.headerByte_of_eq cfg c s.quiet hlast,
      State.headerComplete_eq_fail cfg _ (by exact hfail)]
    exact State.sameParser_refl _
  | headerDecodes d hphase hlast hmin hmax hdecode =>
    rw [fpByteAt_header cfg c hphase, State.headerByte_of_eq cfg c s.quiet hlast,
      State.headerComplete_of_ok cfg _ (by exact hmin) (by exact hmax) (by rw [slice_zero]; exact hdecode)]
    exact State.sameParser_refl _
  | payload hphase =>
    rw [fpByteAt_payload cfg c hphase, State.payloadByte_eq, State.quiet_phase, hphase]
    exact State.sameParser_refl _
  | trailerMore hphase hmore =>
    rw [fpByteAt_trailer cfg c hphase, State.trailerByte_of_ne cfg c s.quiet hmore, State.quiet_trailer, happend]
    exact State.sameParser_refl _
  | trailerMatches hphase hlast hcrc =>
    rw [fpByteAt_trailer cfg c hphase, State.trailerByte_of_eq cfg c s.quiet hlast, State.quiet_trailer, State.quiet_rxCrc,
      happend, if_pos hcrc]
    exact State.sameParser_refl _
  | trailerDiffers hphase hlast hcrc =>
    rw [fpByteAt_trailer cfg c hphase, State.trailerByte_of_eq cfg c s.quiet hlast, State.quiet_trailer, State.quiet_rxCrc,
      happend, if_neg hcrc]
    exact State.sameParser_refl _
  | surplus hphase => rw [fpByteAt_done cfg c hphase]; exact State.sameParser_refl _

/-! ### The invariant, phase by phase -/

section shapes
variable {s : State}

theorem State.phaseShape_idle (h : s.phase = .idle) : s.phaseShape ↔ s.parserCleared := by simp only [State.phaseShape, h]

theorem State.phaseShape_lenPrefix (h : s.phase = .lenPrefix) : s.phaseShape ↔ s.parserCleared := by
  simp only [State.phaseShape, h]

theorem State.phaseShape_header (h : s.phase = .header) :
    s.phaseShape ↔ s.err = .none ∧ s.hcnt < s.hlen ∧ s.frameUntouched := by simp only [State.phaseShape, h]

theorem State.phaseShape_payload (h : s.phase = .payload) :
    s.phaseShape ↔ s.err = .none ∧ s.frameDecoded ∧ 1 ≤ s.prem.toNat ∧ s.tcnt = 0 ∧ s.trailer = 0 ∧ s.surplus = false := by
  simp only [State.phaseShape, h]

theorem State.phaseShape_trailer (h : s.phase = .trailer) :
    s.phaseShape ↔ s.err = .none ∧ s.frameDecoded ∧ s.prem = 0 ∧ s.tcnt.toNat ≤ 3 ∧ s.trailer.toNat < 256 ^ s.tcnt.toNat ∧
      s.surplus = false := by simp only [State.phaseShape, h]

theorem State.phaseShape_done (h : s.phase = .done) :
    s.phaseShape ↔ s.err = .none ∧ s.frameDecoded ∧ s.prem = 0 ∧ s.tcnt = 4 ∧ s.trailer = crc32 Config.spec s.payload := by
  simp only [State.phaseShape, h]

theorem State.phaseShape_decodeError (h : s.phase = .err) (he : s.err = .decodeError) :
    s.phaseShape ↔ s.hcnt = s.hlen ∧ s.frameUntouched := by simp only [State.phaseShape, h, he]

theorem State.phaseShape_checksumMismatch (h : s.phase = .err) (he : s.err = .checksumMismatch) :
    s.phaseShape ↔ s.frameDecoded ∧ s.prem = 0 ∧ s.tcnt = 4 ∧ s.trailer ≠ crc32 Config.spec s.payload ∧ s.surplus = false := by
  simp only [State.phaseShape, h, he]

theorem State.phaseShape_truncatedFrame (h : s.phase = .err) (he : s.err = .truncatedFrame) :
    s.phaseShape ↔
      (s.hlen = 0 ∧ s.hcnt = 0 ∧ s.frameUntouched) ∨ (s.hcnt < s.hlen ∧ s.frameUntouched) ∨
      (s.frameDecoded ∧ 1 ≤ s.prem.toNat ∧ s.tcnt = 0 ∧ s.trailer = 0 ∧ s.surplus = false) ∨
      (s.frameDecoded ∧ s.prem = 0 ∧ s.tcnt.toNat ≤ 3 ∧ s.trailer.toNat < 256 ^ s.tcnt.toNat ∧ s.surplus = false) := by
  simp only [State.phaseShape, h, he]

end shapes

/-- The invariant speaks of the parser registers only. -/
theorem ParserInv.congr {s t : State} (hs : ParserInv s) (h : s.sameParser t) : ParserInv t := by
  rw [(State.sameParser_iff s t).1 h]
  exact ⟨hs.shape, hs.absentReceiver, hs.absentSequence⟩

/-- Cleared registers are untouched ones. -/
theorem State.frameUntouched_of_parserCleared {s : State} (h : s.parserCleared) : s.frameUntouched := by
  obtain ⟨-, -, -, -, hprem, htcnt, htrailer, hrx, hrecv, hseq, hsurplus, hpayload, hhdr⟩ := h
  exact ⟨hprem, htcnt, htrailer, hrx, hrecv, hseq, hsurplus, hpayload, hhdr⟩

/-- What stands in the first bytes of the trailer stays below their range as a byte is shifted in. -/
theorem toNat_setWidth_append_lt {x : Word} {n : Nat} (c : Byte) (hx : x.toNat < 256 ^ n) :
    (x.setWidth 24 ++ c).toNat < 256 ^ (n + 1) := by
  have hlow : x.toNat % 2 ^ 24 ≤ x.toNat := Nat.mod_le _ _
  have hc := c.isLt
  rw [BitVec.toNat_append, BitVec.toNat_setWidth, ← Nat.shiftLeft_add_eq_or_of_lt hc, Nat.shiftLeft_eq, pow_succ]
  omega

/-- A byte keeps the invariant. (`by exact` lets the goal name the state whose phase it is.) -/
theorem ParserInv.byteStep {s t : State} {c : Byte} (hs : ParserInv s) (h : ByteStep Config.spec c s t) : ParserInv t := by
  obtain ⟨hshape, hreceiver, hsequence⟩ := hs
  cases h with
  | ignored hphase => exact ⟨hshape, hreceiver, hsequence⟩
  | lengthZero hphase hc =>
    have huntouched := State.frameUntouched_of_parserCleared ((State.phaseShape_lenPrefix hphase).1 hshape)
    exact ⟨(State.phaseShape_decodeError rfl rfl).2 ⟨rfl, huntouched⟩, hreceiver, hsequence⟩
  | length hphase hc =>
    have hcleared := (State.phaseShape_lenPrefix hphase).1 hshape
    have huntouched := State.frameUntouched_of_parserCleared hcleared
    obtain ⟨herr, -⟩ := hcleared
    have hpos : (0 : Byte) < c := by bv_omega
    exact ⟨(State.phaseShape_header rfl).2 ⟨herr, hpos, huntouched⟩, hreceiver, hsequence⟩
  | headerMore hphase hmore =>
    obtain ⟨herr, hlt, huntouched⟩ := (State.phaseShape_header hphase).1 hshape
    have hlt' : s.hcnt + 1#8 < s.hlen := by bv_omega
    exact ⟨(State.phaseShape_header (by exact hphase)).2 ⟨herr, hlt', huntouched⟩, hreceiver, hsequence⟩
  | headerFails hphase hlast hfail =>
    obtain ⟨-, -, huntouched⟩ := (State.phaseShape_header hphase).1 hshape
    exact ⟨(State.phaseShape_decodeError rfl rfl).2 ⟨hlast, huntouched⟩, hreceiver, hsequence⟩
  | headerDecodes d hphase hlast hmin hmax hdecode =>
    obtain ⟨herr, -, -, htcnt, htrailer, hrx, -, -, hsurplus, hpayload, -⟩ := (State.phaseShape_header hphase).1 hshape
    obtain ⟨-, -, habsentReceiver, habsentSequence⟩ := decodeHeader_fields hdecode
    rw [← slice_zero] at hdecode
    refine ⟨?_, habsentReceiver, habsentSequence⟩
    have hdecoded : ∀ phase, State.frameDecoded
        { s with
          hbuf := s.hbuf.setIfInBounds s.hcnt.toNat c, hcnt := s.hcnt + 1#8, hdr := d.hdr, hasRecv := d.recv, hasSeq := d.seq,
          prem := d.hdr.length, phase := phase } := fun phase =>
      ⟨hlast, hmin, hmax, hdecode, by simp [hpayload], by simp [hpayload, hrx]⟩
    by_cases hempty : d.hdr.length = 0#64
    · rw [if_pos hempty]
      exact (State.phaseShape_trailer rfl).2 ⟨herr, hdecoded _, hempty, by simp [htcnt], by simp [htcnt, htrailer], hsurplus⟩
    · rw [if_neg hempty]
      have hpos : 1 ≤ d.hdr.length.toNat := by bv_omega
      exact (State.phaseShape_payload rfl).2 ⟨herr, hdecoded _, hpos, htcnt, htrailer, hsurplus⟩
  | payload hphase =>
    obtain ⟨herr, ⟨hcnt, hmin, hmax, hdecode, hcount, hrx⟩, hprem, htcnt, htrailer, hsurplus⟩ :=
      (State.phaseShape_payload hphase).1 hshape
    refine ⟨?_, hreceiver, hsequence⟩
    have hsub : (s.prem - 1#64).toNat = s.prem.toNat - 1 := by bv_omega
    have hcount' : (s.payload ++ [c]).length + (s.prem - 1#64).toNat = s.hdr.length.toNat := by
      rw [List.length_append, List.length_singleton, hsub]; omega
    have hrx' : crcStep Config.spec s.rxCrc c = crcFold Config.spec Config.spec.crcInit (s.payload ++ [c]) := by
      rw [crcFold_append, ← hrx]; rfl
    by_cases hlast : s.prem = 1#64
    · rw [if_pos hlast]
      exact (State.phaseShape_trailer rfl).2 ⟨herr, ⟨hcnt, hmin, hmax, hdecode, hcount', hrx'⟩, (prem_sub_one_eq_zero _).2 hlast,
        by simp [htcnt], by simp [htcnt, htrailer], hsurplus⟩
    · rw [if_neg hlast]
      have hpos : 1 ≤ (s.prem - 1#64).toNat := by bv_omega
      exact (State.phaseShape_payload rfl).2 ⟨herr, ⟨hcnt, hmin, hmax, hdecode, hcount', hrx'⟩, hpos, htcnt, htrailer, hsurplus⟩
  | trailerMore hphase hmore =>
    obtain ⟨herr, hdecoded, hprem, hcount, hbound, hsurplus⟩ := (State.phaseShape_trailer hphase).1 hshape
    have hnext : (s.tcnt + 1#3).toNat = s.tcnt.toNat + 1 := by bv_omega
    have hcount' : (s.tcnt + 1#3).toNat ≤ 3 := by bv_omega
    have hbound' := hnext.symm ▸ toNat_setWidth_append_lt c hbound
    exact ⟨(State.phaseShape_trailer (by exact hphase)).2 ⟨herr, hdecoded, hprem, hcount', hbound', hsurplus⟩, hreceiver, hsequence⟩
  | trailerMatches hphase hlast hcrc =>
    obtain ⟨herr, hdecoded, hprem, -, -, -⟩ := (State.phaseShape_trailer hphase).1 hshape
    have ⟨_, _, _, _, _, hrx⟩ := hdecoded
    exact ⟨(State.phaseShape_done rfl).2 ⟨herr, hdecoded, hprem, rfl, hcrc.trans (congrArg _ hrx)⟩, hreceiver, hsequence⟩
  | trailerDiffers hphase hlast hcrc =>
    obtain ⟨-, hdecoded, hprem, -, -, hsurplus⟩ := (State.phaseShape_trailer hphase).1 hshape
    have ⟨_, _, _, _, _, hrx⟩ := hdecoded
    exact ⟨(State.phaseShape_checksumMismatch rfl rfl).2
      ⟨hdecoded, hprem, rfl, fun h => hcrc (h.trans (congrArg (crcFinish Config.spec) hrx.symm)), hsurplus⟩, hreceiver, hsequence⟩
  | surplus hphase =>
    have hdone := (State.phaseShape_done hphase).1 hshape
    exact ⟨(State.phaseShape_done (by exact hphase)).2 hdone, hreceiver, hsequence⟩

/-- The end of a frame in progress keeps the invariant: each phase leaves its own kind of truncated frame. -/
theorem ParserInv.truncate {s : State} (hs : ParserInv s)
    (h : s.phase = .lenPrefix ∨ s.phase = .header ∨ s.phase = .payload ∨ s.phase = .trailer) :
    ParserInv (s.fail .truncatedFrame) := by
  obtain ⟨hshape, hreceiver, hsequence⟩ := hs
  refine ⟨(State.phaseShape_truncatedFrame rfl rfl).2 ?_, hreceiver, hsequence⟩
  obtain hphase | hphase | hphase | hphase := h
  · have hcleared := (State.phaseShape_lenPrefix hphase).1 hshape
    have huntouched := State.frameUntouched_of_parserCleared hcleared
    obtain ⟨-, hlen, hcnt, -⟩ := hcleared
    exact .inl ⟨hlen, hcnt, huntouched⟩
  · exact .inr (.inl ((State.phaseShape_header hphase).1 hshape).2)
  · exact .inr (.inr (.inl ((State.phaseShape_payload hphase).1 hshape).2))
  · exact .inr (.inr (.inr ((State.phaseShape_trailer hphase).1 hshape).2))

/-- Registers as `FP.START` or reset leaves them, but for the phase. -/
theorem ParserInv.of_cleared {s : State} (hphase : s.phase = .idle ∨ s.phase = .lenPrefix) (h : s.parserCleared) : ParserInv s := by
  have ⟨_, _, _, _, _, _, _, _, _, _, _, _, hhdr⟩ := h
  refine ⟨?_, fun _ => by rw [hhdr]; rfl, fun _ => by rw [hhdr]; rfl⟩
  obtain hphase | hphase := hphase
  · exact (State.phaseShape_idle hphase).2 h
  · exact (State.phaseShape_lenPrefix hphase).2 h

theorem State.parserCleared_openFrame (s : State) : (s.openFrame Config.spec).parserCleared :=
  ⟨rfl, rfl, rfl, rfl, rfl, rfl, rfl, rfl, rfl, rfl, rfl, rfl, rfl⟩

theorem State.parserCleared_takeReset (s : State) : (s.takeReset Config.spec).parserCleared :=
  ⟨rfl, rfl, rfl, rfl, rfl, rfl, rfl, rfl, rfl, rfl, rfl, rfl, rfl⟩

/-- Every command keeps the invariant. -/
theorem ParserInv.of_effect {s : State} (hs : ParserInv s) (i : Instr) : ParserInv (effect i s) := by
  cases hi : isParserCommand i with
  | false => exact hs.congr (State.sameParser_symm (effect_sameParser hi s))
  | true =>
    cases i with
    | fpStart => exact .of_cleared (.inr rfl) s.parserCleared_openFrame
    | fpByte c =>
      obtain ⟨t, hstep⟩ := exists_byteStep Config.spec c s
      exact (hs.byteStep hstep).congr (State.sameParser_symm hstep.sameParser)
    | fpEnd =>
      obtain ⟨hphase, hend⟩ | ⟨-, hend⟩ | ⟨-, hend⟩ := fpEndAt_cases s
      · exact (hs.truncate hphase).congr (by rw [effect, hend]; exact State.sameParser_refl _)
      · exact hs.congr (by rw [effect, hend]; exact State.sameParser_refl _)
      · exact hs.congr (by rw [effect, hend]; exact State.sameParser_refl _)
    | _ => cases hi

/-- Settles O53: whatever the step is, it keeps the invariant. -/
theorem stepKeepsTheParserInvariant : Obligations.StepKeepsTheParserInvariant := by
  unfold Obligations.StepKeepsTheParserInvariant
  intro s hs
  have hport (rest : List HostInput) : ParserInv { s with port := rest } := hs.congr s.sameParser_refl
  obtain ⟨-, hstep⟩ | ⟨rest, -, hstep⟩ | ⟨w, rest, e, -, -, hstep⟩ | ⟨w, rest, i, -, -, hstep⟩ := step_cases s
  · exact ⟨_, hstep, hs⟩
  · exact ⟨_, hstep, .of_cleared (.inl rfl) (State.parserCleared_takeReset _)⟩
  · exact ⟨_, hstep, (hport rest).congr (State.sameParser_refl _)⟩
  · exact ⟨_, hstep, (hport rest).of_effect i⟩

/-- Settles O52: after reset every register is cleared. -/
theorem resetMeetsTheParserInvariant : Obligations.ResetMeetsTheParserInvariant :=
  .of_cleared (.inl rfl) State.reset.parserCleared_takeReset

end Sys2Proof.Machine
end

section
/-! Proofs: what follows from one byte's cases and from the invariant (10_state.md R25, R29, R31; 42_frame_parser.md R153, R162;
60_exceptions.md R183, R185, R193; 70_reset_and_hazards.md R204). -/

namespace Sys2Proof.Machine

/-! ### The table of phase changes (R153) -/

/-- A property of the state after a byte that holds whatever the outputs, `CRC_ACC` and the port are. -/
theorem exists_exec_fpByte {P : State → Prop} {c : Byte} {s t : State} (h : ByteStep Config.spec c s t)
    (hP : ∀ resp pay acc port, P (({ t with resp := resp, pay := pay } : State).withHost acc port)) :
    ∃ u, exec (.fpByte c) s = .next u ∧ P u := by
  refine ⟨_, exec_fpByte c s, ?_⟩
  rw [(State.sameParser_iff _ _).1 (State.sameParser_symm h.sameParser)]
  exact hP _ _ _ _

theorem inProgress_iff (s : State) :
    s.inProgress = true ↔ s.phase = .lenPrefix ∨ s.phase = .header ∨ s.phase = .payload ∨ s.phase = .trailer := by
  cases h : s.phase <;> simp [State.inProgress, h]

/-- The three ways of the byte that completes the header (R146). -/
theorem lastHeaderByte_phase {s : State} (c : Byte) (hphase : s.phase = .header) (hlast : s.hcnt + 1#8 = s.hlen) :
    ∃ t, exec (.fpByte c) s = .next t ∧
      ((t.phase = .payload ∧ 1 ≤ t.hdr.length.toNat ∧
          decodeHeader Config.spec (t.hbuf.toList.take t.hlen.toNat) = .ok ⟨t.hdr, t.hasRecv, t.hasSeq⟩) ∨
        (t.phase = .trailer ∧ t.hdr.length = 0#64 ∧
          decodeHeader Config.spec (t.hbuf.toList.take t.hlen.toNat) = .ok ⟨t.hdr, t.hasRecv, t.hasSeq⟩) ∨
        (t.phase = .err ∧ t.err = .decodeError ∧
          (72 < t.hlen.toNat ∨ decodeHeader Config.spec (t.hbuf.toList.take t.hlen.toNat) = .error .decodeError))) := by
  have hbytes : ((s.hbuf.setIfInBounds s.hcnt.toNat c).toList.take s.hlen.toNat).length ≤ s.hlen.toNat := List.length_take_le _ _
  rcases Nat.lt_or_ge 72 s.hlen.toNat with hbig | hmax
  · exact exists_exec_fpByte (.headerFails hphase hlast (.inr (.inl hbig))) fun _ _ _ _ => .inr (.inr ⟨rfl, rfl, .inl hbig⟩)
  cases hdecode : decodeHeader Config.spec ((s.hbuf.setIfInBounds s.hcnt.toNat c).toList.take s.hlen.toNat) with
  | error e =>
    rw [decodeHeader_error hdecode] at hdecode
    exact exists_exec_fpByte (.headerFails hphase hlast (.inr (.inr hdecode)))
      fun _ _ _ _ => .inr (.inr ⟨rfl, rfl, .inr hdecode⟩)
  | ok d =>
    obtain ⟨hmin, -, -, -⟩ := decodeHeader_ok hdecode
    have hstep : ByteStep Config.spec c s _ := .headerDecodes d hphase hlast (hmin.trans hbytes) hmax hdecode
    by_cases hempty : d.hdr.length = 0#64
    · rw [if_pos hempty] at hstep
      exact exists_exec_fpByte hstep fun _ _ _ _ => .inr (.inl ⟨rfl, hempty, hdecode⟩)
    · rw [if_neg hempty] at hstep
      have hpos : 1 ≤ d.hdr.length.toNat := by bv_omega
      exact exists_exec_fpByte hstep fun _ _ _ _ => .inl ⟨rfl, hpos, hdecode⟩

/-- Outside a frame the `FP` commands other than `FP.START` leave the phase (R150, R152). -/
theorem exec_phase_of_no_frame {i : Instr} {s : State} (hphase : s.phase = .idle ∨ s.phase = .err) (hi : i ≠ .fpStart) :
    ∃ t, exec i s = .next t ∧ t.phase = s.phase := by
  cases hp : isParserCommand i with
  | false =>
    obtain ⟨hsame, -⟩ := effect_sameParser hp s
    exact ⟨_, exec_eq_next i s, hsame⟩
  | true =>
    cases i with
    | fpStart => exact absurd rfl hi
    | fpByte c => exact exists_exec_fpByte (.ignored hphase) fun _ _ _ _ => rfl
    | fpEnd => exact ⟨_, exec_fpEnd s, by rw [fpEndAt_ignored hphase]; rfl⟩
    | _ => cases hp

/-- Settles O39, row by row from the cases of a byte and of `FP.END`. -/
theorem phaseChangesAreTheTable : Obligations.PhaseChangesAreTheTable := by
  unfold Obligations.PhaseChangesAreTheTable
  intro s
  refine ⟨⟨_, exec_eq_next .fpStart s, rfl⟩, fun c hphase hc => ?_, fun hphase => ?_, fun c hphase hmore => ?_,
    fun c hphase hlast => ?_, fun c hphase hmore => ?_, fun c hphase hlast => ?_, fun c hphase hmore => ?_,
    fun c hphase hlast => ?_, fun c hphase => ?_, fun hphase => ?_, fun hphase => ?_, fun i hphase _ hi => ?_, fun i hi => ?_⟩
  · exact exists_exec_fpByte (.length hphase hc) fun _ _ _ _ => rfl
  · exact exists_exec_fpByte (.lengthZero hphase rfl) fun _ _ _ _ => ⟨rfl, rfl⟩
  · exact exists_exec_fpByte (.headerMore hphase (by bv_omega)) fun _ _ _ _ => hphase
  · exact lastHeaderByte_phase c hphase (by bv_omega)
  · have hne : s.prem ≠ 1#64 := by bv_omega
    exact exists_exec_fpByte (.payload hphase) fun _ _ _ _ => if_neg hne
  · exact exists_exec_fpByte (.payload hphase) fun _ _ _ _ => if_pos hlast
  · exact exists_exec_fpByte (.trailerMore hphase (by bv_omega)) fun _ _ _ _ => hphase
  · by_cases hcrc : s.trailer.setWidth 24 ++ c = crcFinish Config.spec s.rxCrc
    · exact exists_exec_fpByte (.trailerMatches hphase hlast hcrc) fun _ _ _ _ => .inl ⟨rfl, hcrc⟩
    · exact exists_exec_fpByte (.trailerDiffers hphase hlast hcrc) fun _ _ _ _ => .inr ⟨rfl, rfl, hcrc⟩
  · exact exists_exec_fpByte (.surplus hphase) fun _ _ _ _ => ⟨hphase, rfl⟩
  · exact ⟨_, exec_fpEnd s, by rw [fpEndAt_inProgress ((inProgress_iff s).1 hphase)]; exact ⟨rfl, rfl⟩⟩
  · exact ⟨_, exec_fpEnd s, by rw [fpEndAt_done hphase]; exact hphase⟩
  · exact exec_phase_of_no_frame hphase hi
  · obtain ⟨hsame, -⟩ := effect_sameParser hi s
    exact ⟨_, exec_eq_next i s, hsame⟩

/-! ### A finished frame stands until `FP.START` (R183, R185) -/

theorem effect_sameParser_of_err {i : Instr} {s : State} (hphase : s.phase = .err) (hi : i ≠ .fpStart) :
    (effect i s).sameParser s := by
  cases hp : isParserCommand i with
  | false => exact effect_sameParser hp s
  | true =>
    cases i with
    | fpStart => exact absurd rfl hi
    | fpByte c => exact (ByteStep.ignored (.inr hphase)).sameParser
    | fpEnd => rw [effect, fpEndAt_ignored (.inr hphase)]; exact s.sameParser_refl
    | _ => cases hp

/-- The same parser registers but for `SURPLUS`. -/
def State.sameButSurplus (s t : State) : Prop := State.sameParser { s with surplus := t.surplus } t

theorem State.sameButSurplus_of_sameParser {s t : State} (h : s.sameParser t) : s.sameButSurplus t := by
  rw [(State.sameParser_iff s t).1 h]
  exact State.sameParser_refl _

theorem State.sameButSurplus_trans {s t u : State} (h : s.sameButSurplus t) (h' : t.sameButSurplus u) : s.sameButSurplus u := by
  obtain ⟨h₁, h₂, h₃, h₄, h₅, h₆, h₇, h₈, h₉, h₁₀, h₁₁, -, h₁₃, h₁₄⟩ := h
  obtain ⟨g₁, g₂, g₃, g₄, g₅, g₆, g₇, g₈, g₉, g₁₀, g₁₁, -, g₁₃, g₁₄⟩ := h'
  exact ⟨h₁.trans g₁, h₂.trans g₂, h₃.trans g₃, h₄.trans g₄, h₅.trans g₅, h₆.trans g₆, h₇.trans g₇, h₈.trans g₈, h₉.trans g₉,
    h₁₀.trans g₁₀, h₁₁.trans g₁₁, rfl, h₁₃.trans g₁₃, h₁₄.trans g₁₄⟩

theorem effect_sameButSurplus_of_done {i : Instr} {s : State} (hphase : s.phase = .done) (hi : i ≠ .fpStart) :
    (effect i s).sameButSurplus s := by
  cases hp : isParserCommand i with
  | false => exact State.sameButSurplus_of_sameParser (effect_sameParser hp s)
  | true =>
    cases i with
    | fpStart => exact absurd rfl hi
    | fpByte c => rw [effect, fpByteAt_done Config.spec c hphase]; exact State.sameParser_refl _
    | fpEnd => rw [effect, fpEndAt_done hphase]; exact State.sameParser_refl _
    | _ => cases hp

/-- A relation to the start that every command but `FP.START` keeps holds after any sequence of them. -/
theorem runInstrs_rel_of_no_fpStart {R : State → State → Prop} (hrefl : ∀ s, R s s) (htrans : ∀ {s t u}, R s t → R t u → R s u)
    {phase : Phase} (hphaseOf : ∀ {s t}, R s t → s.phase = t.phase)
    (hstep : ∀ {i s}, s.phase = phase → i ≠ .fpStart → R (effect i s) s) (prog : List Instr) {s : State} (hs : s.phase = phase)
    (hprog : .fpStart ∉ prog) : ∃ t, runInstrs prog s = .next t ∧ R t s := by
  induction prog generalizing s with
  | nil => exact ⟨s, rfl, hrefl s⟩
  | cons i rest ih =>
    obtain ⟨hi, hrest⟩ := not_or.1 (mt List.mem_cons.2 hprog)
    have hone := hstep hs (Ne.symm hi)
    obtain ⟨t, hrun, hrel⟩ := ih ((hphaseOf hone).trans hs) hrest
    exact ⟨t, (runInstrs_cons i rest s).trans hrun, htrans hrel hone⟩

/-- Settles O40, by induction over the commands in each of the two phases. -/
theorem finishedFrameStandsUntilFpStart : Obligations.FinishedFrameStandsUntilFpStart := by
  unfold Obligations.FinishedFrameStandsUntilFpStart
  exact fun prog s hprog =>
    ⟨fun hphase => runInstrs_rel_of_no_fpStart State.sameParser_refl State.sameParser_trans And.left effect_sameParser_of_err
      prog hphase hprog,
    fun hphase => runInstrs_rel_of_no_fpStart (R := State.sameButSurplus) State.sameParser_refl State.sameButSurplus_trans And.left
      effect_sameButSurplus_of_done prog hphase hprog⟩

/-! ### `SURPLUS` (R204) -/

/-- Only a byte in `DONE` sets `SURPLUS`. -/
theorem effect_surplus_eq_false {i : Instr} {s : State} (hs : s.surplus = false) (hrule : startBeforeNextFrame s i = true) :
    (effect i s).surplus = false := by
  cases hp : isParserCommand i with
  | false =>
    obtain ⟨-, -, -, -, -, -, -, -, -, -, -, hsurplus, -⟩ := effect_sameParser hp s
    exact hsurplus.trans hs
  | true =>
    cases i with
    | fpStart => rfl
    | fpByte c =>
      obtain ⟨t, hstep⟩ := exists_byteStep Config.spec c s
      obtain ⟨-, -, -, -, -, -, -, -, -, -, -, hsurplus, -⟩ := hstep.sameParser
      refine hsurplus.trans ?_
      cases hstep with
      | surplus hphase => simp [startBeforeNextFrame, hphase] at hrule
      | _ => exact hs
    | fpEnd =>
      obtain ⟨-, -, -, -, -, -, -, -, -, -, -, hsurplus, -⟩ := fpEndAt_sameParser s
      exact hsurplus.trans hs
    | _ => cases hp

/-- Settles O56, by induction over the commands. -/
theorem oneStartPerFrameNeverSetsSurplus : Obligations.OneStartPerFrameNeverSetsSurplus := by
  unfold Obligations.OneStartPerFrameNeverSetsSurplus
  intro prog s hs hobeys
  induction prog generalizing s with
  | nil => exact ⟨s, rfl, hs⟩
  | cons i rest ih =>
    simp only [obeys, exec_eq_next, Bool.and_eq_true] at hobeys
    obtain ⟨hrule, hrest⟩ := hobeys
    rw [runInstrs_cons]
    exact ih (effect i s) (effect_surplus_eq_false hs hrule) hrest

/-! ### The clauses of R31 -/

/-- The implied length in terms of the two flags (R122). -/
theorem presence_len_eq_flags (cfg : Config) (mt pr : Byte) :
    (presence cfg mt pr).len = 52 + 16 * (presence cfg mt pr).recv.toNat + 4 * (presence cfg mt pr).seq.toNat := by
  simp only [presence, hdrBase, recvLen, seqLen]
  cases isBroadcast cfg mt <;> cases isDatagram cfg pr <;> rfl

/-- What a decoded frame says of the header length and the flags. -/
theorem State.frameDecoded_lengths {s : State} (h : s.frameDecoded) :
    s.hlen.toNat ∈ [52, 56, 68, 72] ∧ s.hlen.toNat = 52 + 16 * s.hasRecv.toNat + 4 * s.hasSeq.toNat ∧
    s.hasRecv = (s.hdr.msgType == Config.spec.mtBroadcast) ∧ s.hasSeq = (s.hdr.protocol == Config.spec.protoDatagram) := by
  obtain ⟨-, -, hmax, hdecode, -, -⟩ := h
  obtain ⟨-, -, hlen, hd⟩ := decodeHeader_ok hdecode
  obtain ⟨hrecv, hseq, -, -⟩ := decodeHeader_fields hdecode
  injection hd with _ hrecv' hseq'
  have hbytes : (slice s.hbuf.toList 0 s.hlen.toNat).length = s.hlen.toNat := by
    rw [length_slice, Vector.length_toList]
    exact Nat.min_eq_left hmax
  rw [hbytes] at hlen
  refine ⟨hlen ▸ presence_len_mem Config.spec _ _, ?_, hrecv, hseq⟩
  rw [← hlen, presence_len_eq_flags]
  exact congrArg₂ (fun r q : Bool => 52 + 16 * r.toNat + 4 * q.toNat) hrecv'.symm hseq'.symm

/-- A decoded phase has a decoded frame. -/
theorem ParserInv.frameDecoded {s : State} (hs : ParserInv s) (h : s.phase.decodedPhase) : s.frameDecoded := by
  obtain ⟨hshape, -, -⟩ := hs
  obtain h | h | h := h
  · obtain ⟨-, hdecoded, -⟩ := (State.phaseShape_payload h).1 hshape
    exact hdecoded
  · obtain ⟨-, hdecoded, -⟩ := (State.phaseShape_trailer h).1 hshape
    exact hdecoded
  · obtain ⟨-, hdecoded, -⟩ := (State.phaseShape_done h).1 hshape
    exact hdecoded

theorem ParserInv.err_eq_none {s : State} (hs : ParserInv s) (h : s.phase ≠ .err) : s.err = .none := by
  obtain ⟨hshape, -, -⟩ := hs
  cases hphase : s.phase with
  | idle => exact ((State.phaseShape_idle hphase).1 hshape).1
  | lenPrefix => exact ((State.phaseShape_lenPrefix hphase).1 hshape).1
  | header => exact ((State.phaseShape_header hphase).1 hshape).1
  | payload => exact ((State.phaseShape_payload hphase).1 hshape).1
  | trailer => exact ((State.phaseShape_trailer hphase).1 hshape).1
  | done => exact ((State.phaseShape_done hphase).1 hshape).1
  | err => exact absurd hphase h

theorem ParserInv.err_ne_none {s : State} (hs : ParserInv s) (h : s.phase = .err) : s.err ≠ .none := by
  intro herr
  obtain ⟨hshape, -, -⟩ := hs
  simp only [State.phaseShape, h, herr] at hshape

/-- `SURPLUS` is clear in every phase but `DONE`. -/
theorem ParserInv.surplus_eq_false {s : State} (hs : ParserInv s) (h : s.phase ≠ .done) : s.surplus = false := by
  have herr := fun hphase => hs.err_ne_none hphase
  obtain ⟨hshape, -, -⟩ := hs
  cases hphase : s.phase with
  | idle =>
    obtain ⟨-, -, -, -, -, -, -, -, -, -, hsurplus, -⟩ := (State.phaseShape_idle hphase).1 hshape
    exact hsurplus
  | lenPrefix =>
    obtain ⟨-, -, -, -, -, -, -, -, -, -, hsurplus, -⟩ := (State.phaseShape_lenPrefix hphase).1 hshape
    exact hsurplus
  | header =>
    obtain ⟨-, -, -, -, -, -, -, -, hsurplus, -⟩ := (State.phaseShape_header hphase).1 hshape
    exact hsurplus
  | payload =>
    obtain ⟨-, -, -, -, -, hsurplus⟩ := (State.phaseShape_payload hphase).1 hshape
    exact hsurplus
  | trailer =>
    obtain ⟨-, -, -, -, -, hsurplus⟩ := (State.phaseShape_trailer hphase).1 hshape
    exact hsurplus
  | done => exact absurd hphase h
  | err =>
    cases he : s.err with
    | none => exact absurd he (herr hphase)
    | decodeError =>
      obtain ⟨-, -, -, -, -, -, -, hsurplus, -⟩ := (State.phaseShape_decodeError hphase he).1 hshape
      exact hsurplus
    | checksumMismatch =>
      obtain ⟨-, -, -, -, hsurplus⟩ := (State.phaseShape_checksumMismatch hphase he).1 hshape
      exact hsurplus
    | truncatedFrame =>
      obtain ⟨-, -, -, -, -, -, -, -, hsurplus, -⟩ | ⟨-, -, -, -, -, -, -, hsurplus, -⟩ | ⟨-, -, -, -, hsurplus⟩ |
        ⟨-, -, -, -, hsurplus⟩ := (State.phaseShape_truncatedFrame hphase he).1 hshape
      · exact hsurplus
      · exact hsurplus
      · exact hsurplus
      · exact hsurplus

/-- The inductive invariant implies every clause of R31. -/
theorem ParserInv.stateInvariant {s : State} (hs : ParserInv s) : StateInvariant s where
  errIff := ⟨hs.err_ne_none, fun herr => Decidable.byContradiction fun h => herr (hs.err_eq_none h)⟩
  idle h := (State.phaseShape_idle h).1 hs.shape
  lenPrefix h := by
    obtain ⟨-, hlen, hcnt, -, hprem, htcnt, htrailer, hrx, hrecv, hseq, hsurplus, hpayload, -⟩ :=
      (State.phaseShape_lenPrefix h).1 hs.shape
    exact ⟨hlen, hcnt, hprem, htcnt, htrailer, hrx, hrecv, hseq, hsurplus, hpayload⟩
  header h := by
    obtain ⟨-, hlt, -⟩ := (State.phaseShape_header h).1 hs.shape
    exact hlt
  decoded h := by
    have hdecoded := hs.frameDecoded h
    obtain ⟨hlengths, hsum, hrecv, hseq⟩ := State.frameDecoded_lengths hdecoded
    obtain ⟨hcnt, -, -, -, hcount, hrx⟩ := hdecoded
    exact ⟨hcnt, hlengths, hsum, hrecv, hseq, hcount, hrx⟩
  payload h := by
    obtain ⟨-, -, hpos, -⟩ := (State.phaseShape_payload h).1 hs.shape
    exact hpos
  trailer h := by
    obtain ⟨-, -, hprem, hcount, -⟩ := (State.phaseShape_trailer h).1 hs.shape
    exact ⟨hprem, hcount⟩
  done h := by
    obtain ⟨herr, -, hprem, htcnt, hcrc⟩ := (State.phaseShape_done h).1 hs.shape
    exact ⟨hprem, htcnt, hcrc, herr⟩
  surplus h := Decidable.byContradiction fun hphase => by
    rw [hs.surplus_eq_false hphase] at h
    cases h

/-! ### Reachable states -/

theorem runSteps_induction {P : State → Prop} (hstep : ∀ s t, P s → step s = .next t → P t) (k : Nat) {s t : State} (hs : P s)
    (hrun : runSteps k s = .next t) : P t := by
  induction k generalizing s with
  | zero => cases hrun; exact hs
  | succ k ih =>
    obtain ⟨u, hu⟩ := step_next s
    rw [runSteps, hu] at hrun
    exact ih (hstep s u hs hu) hrun

/-- Every state reachable from reset meets the invariant. -/
theorem Reachable.parserInv {t : State} (h : Reachable t) : ParserInv t := by
  obtain ⟨inputs, k, hrun⟩ := h
  refine runSteps_induction (fun s u hs hu => ?_) k (s := { State.reset with port := inputs }) ?_ hrun
  · obtain ⟨u', hu', hinv⟩ := stepKeepsTheParserInvariant s hs
    rw [hu] at hu'
    cases hu'
    exact hinv
  · exact resetMeetsTheParserInvariant.congr (State.sameParser_refl _)

/-- Settles O54, from the inductive invariant. -/
theorem reachableStatesMeetTheStatedInvariants : Obligations.ReachableStatesMeetTheStatedInvariants := by
  unfold Obligations.ReachableStatesMeetTheStatedInvariants
  refine ⟨fun t ht => ht.parserInv.stateInvariant, fun i s t hi hexec => ?_⟩
  rw [exec_next hexec]
  exact effect_crcAcc hi s

/-! ### What the host reads of a frame (R162) -/

/-- The answers to the header reads are the registers one after another. -/
theorem responses_headerReads (s : State) :
    responses headerReads s =
      [RegName.status, .id, .sender, .receiver, .timestamp, .length, .sequence, .flags, .msgType, .router, .protocol].map
        fun r => s.readRegister r.number := by
  have hreads : headerReads =
      ([RegName.status, .id, .sender, .receiver, .timestamp, .length, .sequence, .flags, .msgType, .router, .protocol].map
        RegName.number).map .rd := rfl
  rw [hreads, responses_rd]
  exact List.map_map

/-- In `DONE` the host reads the header record and the two flags. -/
theorem headerOfReads_done {s : State} (h : s.phase = .done) :
    headerOfReads (responses headerReads s) = some (s.hdr, s.hasRecv, s.hasSeq) := by
  obtain ⟨-, -, hrecv, hseq, -⟩ := statusHasTheStatedLayout s
  have hanswers : responses headerReads s =
      [RegName.status, .id, .sender, .receiver, .timestamp, .length, .sequence, .flags, .msgType, .router, .protocol].map
        fun r => ⟨.ok, s.regValue r⟩ := by
    rw [responses_headerReads]
    exact List.map_congr_left fun r _ => State.readRegister_done h r
  rw [hanswers, ← hrecv, ← hseq]
  simp [headerOfReads, State.regValue]

/-- Outside `DONE` the header reads answer no header. -/
theorem headerOfReads_not_done {s : State} (h : s.phase ≠ .done) : headerOfReads (responses headerReads s) = none := by
  rw [responses_headerReads]
  refine if_neg fun hall => ?_
  have hid := List.all_eq_true.1 hall (s.readRegister RegName.id.number) (by simp)
  rw [State.readRegister_notValid rfl h] at hid
  cases hid

/-- Settles O55, from the invariant in `DONE`. -/
theorem doneMeansTheTrailerMatched : Obligations.DoneMeansTheTrailerMatched := by
  unfold Obligations.DoneMeansTheTrailerMatched
  intro t ht hphase
  obtain ⟨hshape, hreceiver, hsequence⟩ := ht.parserInv
  obtain ⟨-, ⟨-, -, -, -, hcount, -⟩, hprem, -, hcrc⟩ := (State.phaseShape_done hphase).1 hshape
  rw [hprem] at hcount
  exact ⟨hcrc, hcount, by simp [State.readResult, hphase], headerOfReads_done hphase, by simp [State.releasable, hphase],
    hreceiver, hsequence⟩

/-! ### The place in the frame (R29, R193) -/

theorem State.frameOffset_congr {s t : State} (h : s.sameParser t) : s.frameOffset = t.frameOffset := by
  rw [(State.sameParser_iff s t).1 h]
  rfl

section offsets
variable {s : State}

theorem State.frameOffset_lenPrefix (h : s.phase = .lenPrefix) : s.frameOffset = some 0 := by simp only [State.frameOffset, h]

theorem State.frameOffset_header (h : s.phase = .header) : s.frameOffset = some (1 + s.hcnt.toNat) := by
  simp only [State.frameOffset, h]

theorem State.frameOffset_payload (h : s.phase = .payload) :
    s.frameOffset = some (1 + s.hlen.toNat + (s.hdr.length.toNat - s.prem.toNat)) := by simp only [State.frameOffset, h]

theorem State.frameOffset_trailer (h : s.phase = .trailer) :
    s.frameOffset = some (1 + s.hlen.toNat + s.hdr.length.toNat + s.tcnt.toNat) := by simp only [State.frameOffset, h]

theorem State.frameOffset_done (h : s.phase = .done) :
    s.frameOffset = some (1 + s.hlen.toNat + s.hdr.length.toNat + 4) := by simp only [State.frameOffset, h]

end offsets

/-- An accepted byte moves the offset on by one, whatever phase it leads to. -/
theorem ByteStep.frameOffset_succ {s t : State} {c : Byte} (hs : ParserInv s) (hprogress : s.inProgress = true)
    (h : ByteStep Config.spec c s t) (hok : t.phase ≠ .err) :
    ∃ k, s.frameOffset = some k ∧ t.frameOffset = some (k + 1) := by
  obtain ⟨hshape, -, -⟩ := hs
  cases h with
  | ignored hphase =>
    obtain hphase | hphase := hphase
    · simp [State.inProgress, hphase] at hprogress
    · simp [State.inProgress, hphase] at hprogress
  | lengthZero hphase hc => exact absurd rfl hok
  | length hphase hc => exact ⟨_, State.frameOffset_lenPrefix hphase, rfl⟩
  | headerMore hphase hmore =>
    obtain ⟨-, hlt, -⟩ := (State.phaseShape_header hphase).1 hshape
    have hnext : (s.hcnt + 1#8).toNat = s.hcnt.toNat + 1 := by bv_omega
    exact ⟨_, State.frameOffset_header hphase, (State.frameOffset_header (by exact hphase)).trans (congrArg (some <| 1 + ·) hnext)⟩
  | headerFails hphase hlast hfail => exact absurd rfl hok
  | headerDecodes d hphase hlast hmin hmax hdecode =>
    obtain ⟨-, hlt, -, htcnt, -⟩ := (State.phaseShape_header hphase).1 hshape
    have hnext : s.hlen.toNat = s.hcnt.toNat + 1 := by bv_omega
    refine ⟨_, State.frameOffset_header hphase, ?_⟩
    by_cases hempty : d.hdr.length = 0#64
    · rw [if_pos hempty]
      refine (State.frameOffset_trailer rfl).trans (congrArg some ?_)
      simp only [hempty, htcnt, hnext]
      rfl
    · rw [if_neg hempty]
      refine (State.frameOffset_payload rfl).trans (congrArg some ?_)
      simp only [hnext]
      omega
  | payload hphase =>
    obtain ⟨-, ⟨-, -, -, -, hcount, -⟩, hpos, htcnt, -⟩ := (State.phaseShape_payload hphase).1 hshape
    refine ⟨_, State.frameOffset_payload hphase, ?_⟩
    by_cases hlast : s.prem = 1#64
    · rw [if_pos hlast]
      refine (State.frameOffset_trailer rfl).trans (congrArg some ?_)
      have hone : s.prem.toNat = 1 := congrArg BitVec.toNat hlast
      have hzero : s.tcnt.toNat = 0 := congrArg BitVec.toNat htcnt
      dsimp only
      omega
    · rw [if_neg hlast]
      refine (State.frameOffset_payload rfl).trans (congrArg some ?_)
      have hsub : (s.prem - 1#64).toNat = s.prem.toNat - 1 := by bv_omega
      dsimp only
      omega
  | trailerMore hphase hmore =>
    obtain ⟨-, -, -, hcount, -⟩ := (State.phaseShape_trailer hphase).1 hshape
    have hnext : (s.tcnt + 1#3).toNat = s.tcnt.toNat + 1 := by bv_omega
    exact ⟨_, State.frameOffset_trailer hphase,
      (State.frameOffset_trailer (by exact hphase)).trans (congrArg (some <| 1 + s.hlen.toNat + s.hdr.length.toNat + ·) hnext)⟩
  | trailerMatches hphase hlast hcrc =>
    refine ⟨_, State.frameOffset_trailer hphase, (State.frameOffset_done rfl).trans ?_⟩
    rw [hlast]; rfl
  | trailerDiffers hphase hlast hcrc => exact absurd rfl hok
  | surplus hphase => simp [State.inProgress, hphase] at hprogress

/-- Settles O44, by the offsets of the cases of a byte. -/
theorem acceptedByteAdvancesTheOffsetByOne : Obligations.AcceptedByteAdvancesTheOffsetByOne := by
  unfold Obligations.AcceptedByteAdvancesTheOffsetByOne
  refine ⟨fun s t c hs hprogress hexec hok => ?_, fun s => ⟨_, exec_eq_next .fpStart s, rfl⟩⟩
  obtain ⟨u, hstep⟩ := exists_byteStep Config.spec c s
  have hsame : t.sameParser u := exec_next hexec ▸ hstep.sameParser
  have ⟨hphase, _⟩ := hsame
  rw [State.frameOffset_congr hsame]
  exact hstep.frameOffset_succ hs hprogress (hphase ▸ hok)

/-- What R193 says of a failure in `t`, where the frame stood at `s` before. -/
def FailurePlace (s t : State) : Prop :=
  t.failureOffset = s.frameOffset ∧ (t.err = .decodeError → t.failureOffset = some t.hlen.toNat) ∧
  (t.err = .checksumMismatch → t.failureOffset = some (t.hlen.toNat + t.hdr.length.toNat + 4)) ∧
  (t.err = .truncatedFrame → t.truncatedIn = s.phase)

theorem FailurePlace.congr {s t u : State} (h : FailurePlace s t) (hsame : t.sameParser u) : FailurePlace s u := by
  rw [(State.sameParser_iff t u).1 hsame]
  exact h

section failures
variable {s : State}

theorem State.failureOffset_decodeError (h : s.err = .decodeError) : s.failureOffset = some s.hlen.toNat := by
  simp only [State.failureOffset, h]

theorem State.failureOffset_checksumMismatch (h : s.err = .checksumMismatch) :
    s.failureOffset = some (s.hlen.toNat + s.hdr.length.toNat + 4) := by simp only [State.failureOffset, h]

theorem State.failureOffset_truncatedFrame (h : s.err = .truncatedFrame) :
    s.failureOffset = ({ s with phase := s.truncatedIn } : State).frameOffset := by simp only [State.failureOffset, h]

theorem FailurePlace.of_decodeError {t : State} (herr : t.err = .decodeError) (h : s.frameOffset = some t.hlen.toNat) :
    FailurePlace s t := by
  have hplace := State.failureOffset_decodeError herr
  exact ⟨hplace.trans h.symm, fun _ => hplace, fun h' => (nomatch herr.symm.trans h'), fun h' => (nomatch herr.symm.trans h')⟩

theorem FailurePlace.of_checksumMismatch {t : State} (herr : t.err = .checksumMismatch)
    (h : s.frameOffset = some (t.hlen.toNat + t.hdr.length.toNat + 4)) : FailurePlace s t := by
  have hplace := State.failureOffset_checksumMismatch herr
  exact ⟨hplace.trans h.symm, fun h' => (nomatch herr.symm.trans h'), fun _ => hplace, fun h' => (nomatch herr.symm.trans h')⟩

/-- A frame in progress that is cut keeps its registers, so its place follows from its phase. -/
theorem FailurePlace.of_truncated (h : s.truncatedIn = s.phase) : FailurePlace s (s.fail .truncatedFrame) := by
  have hplace : (s.fail .truncatedFrame).failureOffset = ({ s with phase := s.truncatedIn } : State).frameOffset :=
    State.failureOffset_truncatedFrame rfl
  rw [h] at hplace
  exact ⟨hplace, fun h' => (nomatch h'), fun h' => (nomatch h'), fun _ => h⟩

end failures

/-- The working registers of a frame in progress tell its phase (R193). -/
theorem ParserInv.truncatedIn_eq {s : State} (hs : ParserInv s)
    (h : s.phase = .lenPrefix ∨ s.phase = .header ∨ s.phase = .payload ∨ s.phase = .trailer) : s.truncatedIn = s.phase := by
  obtain ⟨hshape, -, -⟩ := hs
  obtain hphase | hphase | hphase | hphase := h
  · obtain ⟨-, hlen, -⟩ := (State.phaseShape_lenPrefix hphase).1 hshape
    rw [State.truncatedIn, if_pos hlen, hphase]
  · obtain ⟨-, hlt, -⟩ := (State.phaseShape_header hphase).1 hshape
    have hlen : s.hlen ≠ 0 := by bv_omega
    rw [State.truncatedIn, if_neg hlen, if_pos hlt, hphase]
  · obtain ⟨-, ⟨hcnt, hmin, -⟩, hpos, -⟩ := (State.phaseShape_payload hphase).1 hshape
    have hlen : s.hlen ≠ 0 := fun h => by rw [h] at hmin; exact absurd hmin (by decide)
    have hfull : ¬ s.hcnt < s.hlen := by rw [hcnt]; exact BitVec.lt_irrefl _
    rw [State.truncatedIn, if_neg hlen, if_neg hfull, if_pos hpos, hphase]
  · obtain ⟨-, ⟨hcnt, hmin, -⟩, hprem, -⟩ := (State.phaseShape_trailer hphase).1 hshape
    have hlen : s.hlen ≠ 0 := fun h => by rw [h] at hmin; exact absurd hmin (by decide)
    have hfull : ¬ s.hcnt < s.hlen := by rw [hcnt]; exact BitVec.lt_irrefl _
    have hnone : ¬ 1 ≤ s.prem.toNat := by rw [hprem]; decide
    rw [State.truncatedIn, if_neg hlen, if_neg hfull, if_neg hnone, hphase]

/-- The byte that fails a frame stood at the place that is recomputed. -/
theorem ByteStep.failurePlace {s t : State} {c : Byte} (hs : ParserInv s) (hphase : s.phase ≠ .err)
    (h : ByteStep Config.spec c s t) (hfail : t.phase = .err) : FailurePlace s t := by
  obtain ⟨hshape, -, -⟩ := hs
  cases h with
  | ignored _ => exact absurd hfail hphase
  | lengthZero hp hc => exact .of_decodeError rfl (State.frameOffset_lenPrefix hp)
  | length hp hc => cases hfail
  | headerMore hp hmore => exact absurd hfail hphase
  | headerFails hp hlast hcause =>
    obtain ⟨-, hlt, -⟩ := (State.phaseShape_header hp).1 hshape
    have hnext : 1 + s.hcnt.toNat = s.hlen.toNat := by bv_omega
    exact .of_decodeError rfl ((State.frameOffset_header hp).trans (congrArg some hnext))
  | headerDecodes d hp hlast hmin hmax hdecode => dsimp only at hfail; split at hfail <;> cases hfail
  | payload hp => dsimp only at hfail; split at hfail <;> cases hfail
  | trailerMore hp hmore => exact absurd hfail hphase
  | trailerMatches hp hlast hcrc => cases hfail
  | trailerDiffers hp hlast hcrc =>
    have hthree : s.tcnt.toNat = 3 := congrArg BitVec.toNat hlast
    refine .of_checksumMismatch rfl ((State.frameOffset_trailer hp).trans (congrArg some ?_))
    dsimp only
    omega
  | surplus hp => exact absurd hfail hphase

/-- Settles O45: a command that fails the frame is a byte, by its cases, or `FP.END`. -/
theorem failurePlaceIsRecomputed : Obligations.FailurePlaceIsRecomputed := by
  unfold Obligations.FailurePlaceIsRecomputed
  intro s t i hs hphase hexec hfail
  rw [exec_next hexec] at hfail ⊢
  change FailurePlace s (effect i s)
  cases hp : isParserCommand i with
  | false =>
    obtain ⟨hsame, -⟩ := effect_sameParser hp s
    exact absurd (hsame.symm.trans hfail) hphase
  | true =>
    cases i with
    | fpStart => cases hfail
    | fpByte c =>
      obtain ⟨u, hstep⟩ := exists_byteStep Config.spec c s
      obtain ⟨hsame, -⟩ := hstep.sameParser
      exact (hstep.failurePlace hs hphase (hsame.symm.trans hfail)).congr (State.sameParser_symm hstep.sameParser)
    | fpEnd =>
      rw [effect] at hfail ⊢
      obtain ⟨hprogress, hend⟩ | ⟨-, hend⟩ | ⟨-, hend⟩ := fpEndAt_cases s
      · rw [hend]
        exact (FailurePlace.of_truncated (hs.truncatedIn_eq hprogress)).congr (State.sameParser_refl _)
      · rw [hend] at hfail; exact absurd hfail hphase
      · rw [hend] at hfail; exact absurd hfail hphase
    | _ => cases hp

end Sys2Proof.Machine
end

section
/-! Proofs: the CRC as a fold of single bits, and what follows from its linearity (40_crc.md R100 to R105, R109). -/

namespace Sys2Proof.Machine

/-! ### Other commands may stand between the updates (R109) -/

/-- Any command but `CRC.INIT` folds into `CRC_ACC` the byte that it updates with, if it updates at all. -/
theorem effect_crcAcc_of_ne_crcInit {i : Instr} (hi : i ≠ .crcInit) (s : State) :
    (effect i s).crcAcc = crcFold Config.spec s.crcAcc (updBytes [i]) := by
  cases i with
  | crcInit => exact absurd rfl hi
  | crcUpd c => rfl
  | crcGet => rfl
  | fpStart => rfl
  | fpByte c => exact effect_crcAcc (i := .fpByte c) rfl s
  | fpEnd => exact effect_crcAcc (i := .fpEnd) rfl s
  | pdDec a b => rfl
  | pdVal a b c => rfl
  | rd c => rfl

theorem updBytes_cons (i : Instr) (prog : List Instr) : updBytes (i :: prog) = updBytes [i] ++ updBytes prog := by
  cases i <;> rfl

theorem runInstrs_crcAcc (prog : List Instr) (s : State) (hprog : ∀ i ∈ prog, i ≠ .crcInit) :
    ∃ t, runInstrs prog s = .next t ∧ t.crcAcc = crcFold Config.spec s.crcAcc (updBytes prog) := by
  induction prog generalizing s with
  | nil => exact ⟨s, rfl, rfl⟩
  | cons i rest ih =>
    obtain ⟨t, hrun, hacc⟩ := ih (effect i s) fun j hj => hprog j (List.mem_cons_of_mem i hj)
    refine ⟨t, (runInstrs_cons i rest s).trans hrun, ?_⟩
    rw [hacc, effect_crcAcc_of_ne_crcInit (hprog i List.mem_cons_self), updBytes_cons i rest, crcFold_append]

/-- Settles O14: whatever stands between, the accumulator is the fold of the updates from `CRC_INIT`. -/
theorem checksumSequenceSurvivesInterleaving : Obligations.ChecksumSequenceSurvivesInterleaving := by
  unfold Obligations.ChecksumSequenceSurvivesInterleaving
  intro prog s hprog
  obtain ⟨t, hrun, hacc⟩ := runInstrs_crcAcc prog (effect .crcInit s) hprog
  refine ⟨effect .crcGet t, ?_, ?_⟩
  · rw [runInstrs_cons, runInstrs_append, hrun]
    exact runInstrs_cons .crcGet [] t
  · rw [effect_crcGet, hacc]
    rfl

/-! ### The shift step is linear and loses nothing -/

theorem XorAdditive.map_zero {f : Word → Word} (h : XorAdditive f) : f 0 = 0 := by
  have hzero := h 0 0
  rw [BitVec.xor_self, BitVec.xor_self] at hzero
  exact hzero

/-- Where the polynomial has the constant term, only 0 goes to 0: a bit that leaves at the bottom enters at the top. -/
theorem eq_zero_of_crcShift_eq_zero {cfg : Config} (hpoly : cfg.crcPolyR.getLsbD 31 = true) {x : Word} (h : crcShift cfg x = 0) :
    x = 0 := by
  have hbit (i : Nat) : (crcShift cfg x).getLsbD i = false := by rw [h]; exact BitVec.getLsbD_zero
  rw [crcShift] at hbit
  split at hbit
  · have htop := hbit 31
    rw [BitVec.getLsbD_xor, BitVec.getLsbD_ushiftRight, BitVec.getLsbD_of_ge x (1 + 31) (by decide), hpoly] at htop
    cases htop
  · next hlow =>
    refine BitVec.eq_of_getLsbD_eq fun i _ => Eq.trans ?_ BitVec.getLsbD_zero.symm
    cases i with
    | zero => exact Bool.eq_false_iff.2 hlow
    | succ i => simpa [BitVec.getLsbD_ushiftRight, Nat.add_comm] using hbit i

theorem crcShift_injective {cfg : Config} (hpoly : cfg.crcPolyR.getLsbD 31 = true) : Function.Injective (crcShift cfg) := by
  intro x y hxy
  refine BitVec.xor_eq_zero_iff.1 (eq_zero_of_crcShift_eq_zero hpoly ?_)
  rw [crcShift_xorAdditive, hxy]
  exact BitVec.xor_self

/-! ### The bits of a sequence, folded one by one -/

/-- A bit as a remainder, at the place where the next bit enters. -/
def bitWord (b : Bool) : Word := if b then 1#32 else 0#32

theorem bitWord_xor (a b : Bool) : bitWord (a ^^ b) = bitWord a ^^^ bitWord b := ite_bxor_eq_xor a b 1#32

/-- Fold the bits `f 0` to `f (n-1)` into a remainder, one shift step each. -/
def bitFold (cfg : Config) (acc : Word) (f : Nat → Bool) : Nat → Word
  | 0 => acc
  | n + 1 => crcShift cfg (bitFold cfg acc f n ^^^ bitWord (f n))

theorem bitFold_add (cfg : Config) (acc : Word) (f : Nat → Bool) (m n : Nat) :
    bitFold cfg acc f (m + n) = bitFold cfg (bitFold cfg acc f m) (fun i => f (m + i)) n := by
  induction n with
  | zero => rfl
  | succ n ih => rw [← Nat.add_assoc, bitFold, bitFold, ih]

theorem bitFold_congr (cfg : Config) (acc : Word) {f g : Nat → Bool} {n : Nat} (h : ∀ i < n, f i = g i) :
    bitFold cfg acc f n = bitFold cfg acc g n := by
  induction n with
  | zero => rfl
  | succ n ih => rw [bitFold, bitFold, ih fun i hi => h i (by omega), h n (by omega)]

/-- Folding is linear in the remainder and the bits together. -/
theorem bitFold_xor (cfg : Config) (acc acc' : Word) (f g : Nat → Bool) (n : Nat) :
    bitFold cfg (acc ^^^ acc') (fun i => f i ^^ g i) n = bitFold cfg acc f n ^^^ bitFold cfg acc' g n := by
  induction n with
  | zero => rfl
  | succ n ih =>
    rw [bitFold, bitFold, bitFold, ih, bitWord_xor, ← crcShift_xorAdditive]
    congr 1
    ac_rfl

theorem bitFold_eq_zero (cfg : Config) {f : Nat → Bool} {n : Nat} (h : ∀ i < n, f i = false) : bitFold cfg 0 f n = 0 := by
  induction n with
  | zero => rfl
  | succ n ih =>
    rw [bitFold, ih fun i hi => h i (by omega), h n (by omega)]
    exact (crcShift_xorAdditive cfg).map_zero

/-- Of what is added to a remainder, the low bit takes part in the shift step; the rest moves one place down. -/
theorem crcShift_xor (cfg : Config) (x w : Word) :
    crcShift cfg (x ^^^ w) = crcShift cfg (x ^^^ bitWord (w.getLsbD 0)) ^^^ w >>> 1 := by
  have hlow : (bitWord (w.getLsbD 0)).getLsbD 0 = w.getLsbD 0 := by cases w.getLsbD 0 <;> rfl
  have hgone : bitWord (w.getLsbD 0) >>> 1 = 0#32 := by cases w.getLsbD 0 <;> rfl
  simp only [crcShift_eq_xor_ite, BitVec.getLsbD_xor, hlow, BitVec.ushiftRight_xor_distrib, hgone, BitVec.xor_zero]
  rw [BitVec.xor_assoc, BitVec.xor_comm (w >>> 1), ← BitVec.xor_assoc]

/-- So shifting `n` times what was added at once is folding its bits, with what is left of it above. -/
theorem repeatTimes_crcShift_xor (cfg : Config) (acc w : Word) (n : Nat) :
    repeatTimes (crcShift cfg) n (acc ^^^ w) = bitFold cfg acc w.getLsbD n ^^^ w >>> n := by
  induction n generalizing acc w with
  | zero => simp [repeatTimes, bitFold]
  | succ n ih =>
    have hbits : (w >>> 1).getLsbD = fun i => w.getLsbD (1 + i) := funext fun i => BitVec.getLsbD_ushiftRight w 1 i
    rw [repeatTimes, crcShift_xor, ih, hbits, ← BitVec.shiftRight_add, Nat.add_comm n 1, bitFold_add]
    rfl

theorem setWidth_ushiftRight_eight (b : Byte) : (b.setWidth 32 : Word) >>> 8 = 0#32 := by
  refine BitVec.eq_of_getLsbD_eq fun i _ => ?_
  simp [BitVec.getLsbD_ushiftRight, BitVec.getLsbD_setWidth]

/-- The step of a byte folds its eight bits, least significant first (R101). -/
theorem crcStep_eq_bitFold {cfg : Config} (hrefin : cfg.crcRefIn = true) (acc : Word) (b : Byte) :
    crcStep cfg acc b = bitFold cfg acc b.getLsbD 8 := by
  rw [crcStep_reflected hrefin, repeatTimes_crcShift_xor, setWidth_ushiftRight_eight, BitVec.xor_zero]
  exact bitFold_congr cfg acc fun i hi => by simp [BitVec.getLsbD_setWidth]; omega

/-- Settles O15: of remainder plus byte, the low eight bits are the table's index and the others only move down. -/
theorem tableFormEqualsBitSerialForm : Obligations.TableFormEqualsBitSerialForm := by
  unfold Obligations.TableFormEqualsBitSerialForm
  intro acc b
  have hindex : bitFold Config.spec 0 (acc ^^^ b.setWidth 32).getLsbD 8 =
      crcTableEntry Config.spec ((acc ^^^ b.setWidth 32).extractLsb' 0 8) := by
    rw [crcTableEntry, crcStep_eq_bitFold rfl]
    exact bitFold_congr _ _ fun i hi => by simp [hi]
  have hmoved : (acc ^^^ b.setWidth 32) >>> 8 = acc >>> 8 := by
    rw [BitVec.ushiftRight_xor_distrib, setWidth_ushiftRight_eight, BitVec.xor_zero]
  calc crcStep Config.spec acc b
    _ = repeatTimes (crcShift Config.spec) 8 (0 ^^^ (acc ^^^ b.setWidth 32)) := by
        rw [crcStep_reflected rfl]; exact congrArg _ BitVec.zero_xor.symm
    _ = bitFold Config.spec 0 (acc ^^^ b.setWidth 32).getLsbD 8 ^^^ (acc ^^^ b.setWidth 32) >>> 8 :=
        repeatTimes_crcShift_xor ..
    _ = crcStepByTable Config.spec acc b := by rw [hindex, hmoved, BitVec.xor_comm]; rfl

/-- The bits of a sequence beyond its end read 0. -/
theorem streamBit_of_ge {s : List Byte} {i : Nat} (h : 8 * s.length ≤ i) : streamBit s i = false := by
  have hend : byteAt s (i / 8) = 0 := List.getD_eq_default _ _ (by omega)
  rw [streamBit, hend]
  exact BitVec.getLsbD_zero

theorem streamBit_cons_of_lt (b : Byte) (s : List Byte) {i : Nat} (h : i < 8) : streamBit (b :: s) i = b.getLsbD i := by
  rw [streamBit, Nat.div_eq_of_lt h, Nat.mod_eq_of_lt h]
  rfl

theorem streamBit_cons_add (b : Byte) (s : List Byte) (i : Nat) : streamBit (b :: s) (8 + i) = streamBit s i := by
  rw [streamBit, streamBit, Nat.add_mod_left, Nat.add_div_left i (by decide)]
  rfl

/-- Folding a byte sequence is folding its bits in the order the CRC takes them (R105). -/
theorem crcFold_eq_bitFold {cfg : Config} (hrefin : cfg.crcRefIn = true) (acc : Word) (s : List Byte) :
    crcFold cfg acc s = bitFold cfg acc (streamBit s) (8 * s.length) := by
  induction s generalizing acc with
  | nil => rfl
  | cons b rest ih =>
    have hfirst := bitFold_congr cfg acc fun i hi => streamBit_cons_of_lt b rest (i := i) hi
    have hrest : (fun i => streamBit (b :: rest) (8 + i)) = streamBit rest := funext fun i => streamBit_cons_add b rest i
    rw [crcFold_cons, ih, crcStep_eq_bitFold hrefin, List.length_cons, Nat.mul_add, Nat.add_comm (8 * _), bitFold_add, hrest,
      hfirst]

/-- A sequence is its bits. -/
theorem eq_of_streamBit_eq {s t : List Byte} (hlen : s.length = t.length) (h : ∀ i, streamBit s i = streamBit t i) : s = t := by
  refine List.ext_getElem hlen fun j hs ht => BitVec.eq_of_getLsbD_eq fun i hi => ?_
  have hbit := h (8 * j + i)
  have hdiv : (8 * j + i) / 8 = j := by omega
  have hmod : (8 * j + i) % 8 = i := by omega
  simpa [streamBit, hdiv, hmod, byteAt, List.getD_eq_getElem, hs, ht] using hbit

/-- The difference of two folds from one remainder is the fold of the difference. -/
theorem crcFold_xor {cfg : Config} (hrefin : cfg.crcRefIn = true) (acc : Word) {s t : List Byte} (hlen : s.length = t.length) :
    crcFold cfg acc s ^^^ crcFold cfg acc t =
      bitFold cfg 0 (fun i => streamBit s i ^^ streamBit t i) (8 * s.length) := by
  rw [crcFold_eq_bitFold hrefin, crcFold_eq_bitFold hrefin, ← hlen, ← bitFold_xor, BitVec.xor_self]
  rfl

/-! ### A short burst (R105 (a)) -/

/-- The next 32 bits of `f` from `n` on, the first one lowest. -/
def ahead (f : Nat → Bool) (n : Nat) : Word := BitVec.ofFnLE fun i : Fin 32 => f (n + i)

theorem getLsbD_ahead (f : Nat → Bool) (n i : Nat) : (ahead f n).getLsbD i = (decide (i < 32) && f (n + i)) := by
  by_cases h : i < 32
  · simp [ahead, h]
  · simp [ahead, h, BitVec.getLsbD_of_ge _ _ (Nat.le_of_not_lt h)]

theorem ahead_ushiftRight_one {f : Nat → Bool} {n : Nat} (h : f (n + 32) = false) : ahead f n >>> 1 = ahead f (n + 1) := by
  refine BitVec.eq_of_getLsbD_eq fun i hi => ?_
  rw [BitVec.getLsbD_ushiftRight, getLsbD_ahead, getLsbD_ahead, ← Nat.add_assoc]
  by_cases hi' : i = 31
  · subst hi'
    simpa using h.symm
  · simp [hi, show 1 + i < 32 by omega]

/-- Once all the bits that are set lie in view, folding one more is a shift step of the remainder and the view together. -/
theorem bitFold_xor_ahead_succ (cfg : Config) {f : Nat → Bool} {n : Nat} (h : f (n + 32) = false) :
    bitFold cfg 0 f (n + 1) ^^^ ahead f (n + 1) = crcShift cfg (bitFold cfg 0 f n ^^^ ahead f n) := by
  have hlow : (ahead f n).getLsbD 0 = f n := by rw [getLsbD_ahead]; rfl
  rw [crcShift_xor, hlow, ahead_ushiftRight_one h, bitFold]

/-- Bits that are not all 0 and stand within 32 places leave a remainder that is not 0. -/
theorem bitFold_ne_zero_of_burst {cfg : Config} (hpoly : cfg.crcPolyR.getLsbD 31 = true) {f : Nat → Bool} {k n j : Nat}
    (hf : ∀ i, i < k ∨ k + 32 ≤ i → f i = false) (hn : ∀ i, n ≤ i → f i = false) (hj : f j = true) :
    bitFold cfg 0 f n ≠ 0 := by
  have hwindow : k ≤ j ∧ j < k + 32 := by
    by_contra hout
    rw [hf j (by omega)] at hj
    cases hj
  have hjn : j < n := by
    by_contra hout
    rw [hn j (by omega)] at hj
    cases hj
  have hview (m : Nat) : bitFold cfg 0 f (k + m) ^^^ ahead f (k + m) ≠ 0 := by
    induction m with
    | zero =>
      intro hzero
      rw [Nat.add_zero, bitFold_eq_zero cfg fun i hi => hf i (.inl hi)] at hzero
      have hbit : (0 ^^^ ahead f k).getLsbD (j - k) = true := by
        rw [BitVec.getLsbD_xor, getLsbD_ahead, show k + (j - k) = j by omega, hj]
        simp; omega
      rw [hzero] at hbit
      exact absurd hbit (by simp)
    | succ m ih =>
      intro hzero
      rw [← Nat.add_assoc, bitFold_xor_ahead_succ cfg (hf _ (.inr (by omega)))] at hzero
      exact ih (eq_zero_of_crcShift_eq_zero hpoly hzero)
  have hempty : ahead f n = 0 := BitVec.eq_of_getLsbD_eq fun i _ => by
    rw [getLsbD_ahead, hn (n + i) (by omega)]
    simp
  have hlast := hview (n - k)
  rwa [show k + (n - k) = n by omega, hempty, show bitFold cfg 0 f n ^^^ 0 = bitFold cfg 0 f n from BitVec.xor_zero] at hlast

/-- Settles O17: equal codes would be equal remainders, and their difference is the remainder of a short burst. -/
theorem shortBurstChangesTheCode : Obligations.ShortBurstChangesTheCode := by
  unfold Obligations.ShortBurstChangesTheCode
  intro cfg s s' k hrefin hpoly hlen hne hagree hcode
  have hfold := crcFinish_injective cfg hcode
  have hzero := crcFold_xor hrefin cfg.crcInit hlen
  rw [hfold, BitVec.xor_self] at hzero
  obtain ⟨j, hj⟩ : ∃ j, streamBit s j ≠ streamBit s' j := by
    by_contra hall
    exact hne (eq_of_streamBit_eq hlen fun i => by_contra fun hi => hall ⟨i, hi⟩)
  refine bitFold_ne_zero_of_burst hpoly (k := k) (j := j) (fun i hi => ?_) (fun i hi => ?_) ?_ hzero.symm
  · rw [hagree i hi, Bool.xor_self]
  · rw [streamBit_of_ge hi, streamBit_of_ge (hlen ▸ hi), Bool.xor_self]
  · exact Bool.xor_iff_ne.2 hj

/-! ### The pattern of the generator (R105 (b)) -/

/-- The bytes of the bits `f 0` to `f (8n-1)`. -/
def bytesOfBits (f : Nat → Bool) (n : Nat) : List Byte :=
  (List.range n).map fun j => BitVec.ofFnLE fun i : Fin 8 => f (8 * j + i)

theorem length_bytesOfBits (f : Nat → Bool) (n : Nat) : (bytesOfBits f n).length = n := by simp [bytesOfBits]

theorem streamBit_bytesOfBits {f : Nat → Bool} {n i : Nat} (h : i < 8 * n) : streamBit (bytesOfBits f n) i = f i := by
  have hbyte : i / 8 < n := by omega
  have hplace : 8 * (i / 8) + i % 8 = i := Nat.div_add_mod i 8
  have hmod : i % 8 < 8 := Nat.mod_lt _ (by decide)
  simp [streamBit, byteAt, bytesOfBits, hbyte, hplace, hmod]

/-- The pattern is nothing but one multiple of the generator: after its 33 bits the remainder is 0 again. -/
theorem bitFold_generatorBit : bitFold Config.spec 0 (generatorBit Config.spec) 33 = 0 := by decide +kernel

theorem generatorBit_of_gt (cfg : Config) {j : Nat} (h : 32 < j) : generatorBit cfg j = false := by
  rw [generatorBit, beq_false_of_ne (by omega), decide_eq_false (by omega)]
  rfl

/-- Wherever the pattern is placed, it leaves the remainder 0. -/
theorem bitFold_placed_generator {k n : Nat} (h : k + 33 ≤ n) :
    bitFold Config.spec 0 (fun i => decide (k ≤ i) && generatorBit Config.spec (i - k)) n = 0 := by
  obtain ⟨m, rfl⟩ := Nat.exists_eq_add_of_le h
  have hbefore := bitFold_eq_zero Config.spec (n := k) (f := fun i => decide (k ≤ i) && generatorBit Config.spec (i - k))
    fun i hi => by rw [decide_eq_false (by omega)]; rfl
  have hshifted : (fun i => decide (k ≤ k + i) && generatorBit Config.spec (k + i - k)) = generatorBit Config.spec :=
    funext fun i => by rw [decide_eq_true (by omega), Nat.add_sub_cancel_left]; rfl
  rw [bitFold_add, bitFold_add, hbefore, hshifted, bitFold_generatorBit]
  refine bitFold_eq_zero _ fun i _ => ?_
  rw [show k + 33 + i - k = 33 + i by omega, generatorBit_of_gt _ (by omega), Bool.and_false]

/-- `s` with the pattern added from bit `k` on. -/
def withGenerator (s : List Byte) (k : Nat) : List Byte :=
  bytesOfBits (fun i => streamBit s i ^^ (decide (k ≤ i) && generatorBit Config.spec (i - k))) s.length

theorem length_withGenerator (s : List Byte) (k : Nat) : (withGenerator s k).length = s.length := length_bytesOfBits _ _

theorem streamBit_withGenerator {s : List Byte} {k : Nat} (hk : k + 33 ≤ 8 * s.length) (i : Nat) :
    streamBit (withGenerator s k) i = (streamBit s i ^^ (decide (k ≤ i) && generatorBit Config.spec (i - k))) := by
  rcases Nat.lt_or_ge i (8 * s.length) with hi | hi
  · exact streamBit_bytesOfBits hi
  · rw [streamBit_of_ge hi, streamBit_of_ge (length_withGenerator s k ▸ hi), generatorBit_of_gt _ (by omega), Bool.and_false]
    rfl

/-- The pattern's first bit is set, so the sequence changes. -/
theorem withGenerator_ne {s : List Byte} {k : Nat} (hk : k + 33 ≤ 8 * s.length) : withGenerator s k ≠ s := by
  intro heq
  have hfirst := streamBit_withGenerator hk k
  rw [heq, decide_eq_true (Nat.le_refl k), Nat.sub_self] at hfirst
  cases hs : streamBit s k <;> rw [hs] at hfirst <;> cases hfirst

/-- Settles O18: the difference of the two sequences is the placed pattern, whose remainder is 0. -/
theorem generatorPatternKeepsTheCode : Obligations.GeneratorPatternKeepsTheCode := by
  unfold Obligations.GeneratorPatternKeepsTheCode
  intro s k hk
  have hlen := length_withGenerator s k
  have hbits := streamBit_withGenerator hk
  refine ⟨withGenerator s k, hlen, withGenerator_ne hk, hbits, ?_⟩
  have hdifference : (fun i => streamBit (withGenerator s k) i ^^ streamBit s i) =
      fun i => decide (k ≤ i) && generatorBit Config.spec (i - k) := funext fun i => by
    rw [hbits, Bool.xor_comm (streamBit s i), Bool.xor_assoc, Bool.xor_self, Bool.xor_false]
  refine congrArg (crcFinish Config.spec) (BitVec.xor_eq_zero_iff.1 ?_)
  rw [crcFold_xor rfl _ hlen, hdifference]
  exact bitFold_placed_generator (by omega)

/-! ### The zero byte permutes the remainders (R105 (c)) -/

theorem crcFold_replicate_zero (cfg : Config) (acc : Word) (n : Nat) :
    crcFold cfg acc (List.replicate n 0) = (fun x => crcStep cfg x 0)^[n] acc := by
  induction n generalizing acc with
  | zero => rfl
  | succ n ih => rw [List.replicate_succ, crcFold_cons, ih, Function.iterate_succ_apply]

theorem crcStep_zero_injective : Function.Injective fun x => crcStep Config.spec x 0 := by
  have height : Function.Injective (repeatTimes (crcShift Config.spec) 8) := by
    have hshift := crcShift_injective (cfg := Config.spec) (by decide)
    exact ((hshift.comp hshift).comp (hshift.comp hshift)).comp ((hshift.comp hshift).comp (hshift.comp hshift))
  intro x y hxy
  simp only [crcStep_reflected (cfg := Config.spec) rfl] at hxy
  simpa using height hxy

/-- Refutes O19: the step of a zero byte is injective on the finitely many remainders, so some number of zero bytes leads from
`CRC_INIT` back to it, and there the code is 0. -/
theorem not_codeOfZeroBytesIsNeverZero : ¬ Obligations.CodeOfZeroBytesIsNeverZero := by
  unfold Obligations.CodeOfZeroBytesIsNeverZero
  intro h
  have : Finite Word := Finite.of_injective BitVec.toFin fun _ _ => BitVec.eq_of_toFin_eq
  obtain ⟨n, hn, hperiod⟩ := crcStep_zero_injective.mem_periodicPts Config.spec.crcInit
  refine h n hn ?_
  rw [crc32, crcFold_replicate_zero, hperiod]
  decide

/-! ### Division by the generator (R100, R101) -/

open Polynomial in
/-- Bits as a polynomial over GF(2), the first one the highest power. -/
noncomputable def bitsPoly (f : Nat → Bool) (n : Nat) : (ZMod 2)[X] := ∑ i ∈ Finset.range n, if f i then X ^ (n - 1 - i) else 0

section division
open Polynomial

/-- Over GF(2) a coefficient adds as its bit does. -/
theorem ite_xor_eq_add (a b : Bool) (p : (ZMod 2)[X]) : (if a ^^ b then p else 0) = (if a then p else 0) + if b then p else 0 := by
  cases a <;> cases b <;> simp [CharTwo.add_self_eq_zero]

theorem remainderPoly_xor (x y : Word) : remainderPoly (x ^^^ y) = remainderPoly x + remainderPoly y := by
  simp only [remainderPoly, BitVec.getLsbD_xor, ite_xor_eq_add, Finset.sum_add_distrib]

theorem remainderPoly_bitWord (b : Bool) : remainderPoly (bitWord b) = if b then X ^ 31 else 0 := by
  have hbit (i : Nat) : (bitWord b).getLsbD i = (decide (i = 0) && b) := by
    cases b
    · simp [bitWord]
    · simp [bitWord, BitVec.getLsbD_one]
  rw [remainderPoly, Finset.sum_eq_single 0]
  · rw [hbit]; simp
  · intro i _ hi; rw [hbit]; simp [hi]
  · intro h; simp at h

/-- One place down is one power up; the bit at the bottom leaves as `x^32`. -/
theorem X_mul_remainderPoly (x : Word) : X * remainderPoly x = remainderPoly (x >>> 1) + if x.getLsbD 0 then X ^ 32 else 0 := by
  have hup (i : Nat) (hi : i ∈ Finset.range 31) :
      X * (if x.getLsbD (i + 1) then X ^ (31 - (i + 1)) else 0 : (ZMod 2)[X]) =
        if (x >>> 1).getLsbD i then X ^ (31 - i) else 0 := by
    have hi' := Finset.mem_range.1 hi
    rw [BitVec.getLsbD_ushiftRight, Nat.add_comm 1 i, mul_ite, mul_zero, ← pow_succ', show 31 - (i + 1) + 1 = 31 - i by omega]
  have htop : (x >>> 1).getLsbD 31 = false := by
    rw [BitVec.getLsbD_ushiftRight]; exact BitVec.getLsbD_of_ge x _ (by decide)
  have hlow : remainderPoly x = (∑ i ∈ Finset.range 31, if x.getLsbD (i + 1) then X ^ (31 - (i + 1)) else 0) +
      if x.getLsbD 0 then X ^ 31 else 0 := Finset.sum_range_succ' _ 31
  have hhigh : remainderPoly (x >>> 1) = (∑ i ∈ Finset.range 31, if (x >>> 1).getLsbD i then X ^ (31 - i) else 0) +
      if (x >>> 1).getLsbD 31 then X ^ (31 - 31) else 0 := Finset.sum_range_succ _ 31
  rw [hlow, hhigh, htop, mul_add, Finset.mul_sum, Finset.sum_congr rfl hup, mul_ite, mul_zero, ← pow_succ']
  simp

/-- The reversed form of the polynomial stands for the powers below `x^32` (R100). -/
theorem generatorPoly_spec : generatorPoly Config.spec = X ^ 32 + remainderPoly Config.spec.crcPolyR := by
  have hreversed : ∀ i < 32, Config.spec.crcPoly.getLsbD (31 - i) = Config.spec.crcPolyR.getLsbD i := by decide
  rw [generatorPoly, remainderPoly, ← Finset.sum_range_reflect]
  refine congrArg (X ^ 32 + ·) (Finset.sum_congr rfl fun i hi => ?_)
  have hi' := Finset.mem_range.1 hi
  rw [show 32 - 1 - i = 31 - i from rfl, hreversed i hi']

/-- A shift step multiplies by `x`, and takes the generator off where `x^32` leaves. -/
theorem remainderPoly_crcShift (x : Word) :
    remainderPoly (crcShift Config.spec x) = X * remainderPoly x - if x.getLsbD 0 then generatorPoly Config.spec else 0 := by
  rw [X_mul_remainderPoly, crcShift_eq_xor_ite, remainderPoly_xor, generatorPoly_spec]
  cases x.getLsbD 0
  · simp [remainderPoly]
  · simp only [if_true]
    rw [CharTwo.sub_eq_add, add_assoc, ← add_assoc (X ^ 32), CharTwo.add_self_eq_zero, zero_add]

theorem bitsPoly_succ (f : Nat → Bool) (n : Nat) : bitsPoly f (n + 1) = X * bitsPoly f n + if f n then 1 else 0 := by
  have hup (i : Nat) (hi : i ∈ Finset.range n) :
      (if f i then X ^ (n + 1 - 1 - i) else 0 : (ZMod 2)[X]) = X * if f i then X ^ (n - 1 - i) else 0 := by
    have hi' := Finset.mem_range.1 hi
    rw [mul_ite, mul_zero, ← pow_succ', show n - 1 - i + 1 = n + 1 - 1 - i by omega]
  rw [bitsPoly, bitsPoly, Finset.sum_range_succ, Finset.sum_congr rfl hup, Finset.mul_sum, show n + 1 - 1 - n = 0 by omega, pow_zero]

/-- Folding `n` bits is multiplying by `x^n` and adding the bits, times `x^32`, modulo the generator. -/
theorem generatorPoly_dvd_bitFold (acc : Word) (f : Nat → Bool) (n : Nat) :
    generatorPoly Config.spec ∣
      remainderPoly (bitFold Config.spec acc f n) - (X ^ n * remainderPoly acc + X ^ 32 * bitsPoly f n) := by
  induction n with
  | zero => simp [bitFold, bitsPoly]
  | succ n ih =>
    have hbit : X * remainderPoly (bitWord (f n)) = X ^ 32 * if f n then 1 else 0 := by
      rw [remainderPoly_bitWord, mul_ite, mul_ite, mul_zero, mul_zero, mul_one, ← pow_succ']
    have hstep : remainderPoly (bitFold Config.spec acc f (n + 1)) -
          (X ^ (n + 1) * remainderPoly acc + X ^ 32 * bitsPoly f (n + 1)) =
        X * (remainderPoly (bitFold Config.spec acc f n) - (X ^ n * remainderPoly acc + X ^ 32 * bitsPoly f n)) -
          if (bitFold Config.spec acc f n ^^^ bitWord (f n)).getLsbD 0 then generatorPoly Config.spec else 0 := by
      rw [bitFold, remainderPoly_crcShift, remainderPoly_xor, mul_add, hbit, bitsPoly_succ]
      ring
    rw [hstep]
    refine dvd_sub (Dvd.dvd.mul_left ih X) ?_
    split
    · exact dvd_refl _
    · exact dvd_zero _

end division

/-- Settles O16: folding bytes is folding their bits. -/
theorem foldIsThePolynomialRemainder : Obligations.FoldIsThePolynomialRemainder := by
  unfold Obligations.FoldIsThePolynomialRemainder
  intro acc s
  rw [crcFold_eq_bitFold rfl]
  exact generatorPoly_dvd_bitFold acc (streamBit s) (8 * s.length)

end Sys2Proof.Machine
end

section
/-! Proofs: the machine, fed byte by byte, against `parseFrame` (42_frame_parser.md R140, R151). -/

namespace Sys2Proof.Machine

/-! ### Feeding bytes -/

/-- The state after a byte sequence is fed. -/
def feed (cfg : Config) (bs : List Byte) (s : State) : State := bs.foldl (fun t c => fpByteAt cfg c t) s

theorem feed_append (cfg : Config) (xs ys : List Byte) (s : State) : feed cfg (xs ++ ys) s = feed cfg ys (feed cfg xs s) := by
  simp [feed]

theorem parseAt_eq (cfg : Config) (raw : List Byte) (s : State) : parseAt cfg raw s = fpEndAt (feed cfg raw (fpStartAt cfg s)) := rfl

theorem runInstrs_fpFeed (bs : List Byte) (s : State) : runInstrs (fpFeed bs) s = .next (feed Config.spec bs s) := by
  rw [runInstrs_eq, fpFeed, List.foldl_map]
  rfl

theorem runInstrs_fpParse (raw : List Byte) (s : State) : runInstrs (fpParse raw) s = .next (parseAt Config.spec raw s) := by
  rw [fpParse, runInstrs_cons, runInstrs_append, runInstrs_fpFeed, andThen_next, runInstrs_cons]
  rfl

theorem fpByteAt_congr (cfg : Config) (c : Byte) {s t : State} (h : s.sameParser t) :
    (fpByteAt cfg c s).sameParser (fpByteAt cfg c t) := by
  rw [(State.sameParser_iff s t).1 h, fpByteAt_withHost,
    fpByteAt_eq_of_quiet_eq_withResp cfg c (s := s) (t := { s with resp := t.resp, pay := t.pay }) (r := t.resp) rfl]
  exact State.sameParser_refl _

/-- Whatever state the frame is begun in, the bytes lead the parser to the registers of `t`. -/
def Reaches (cfg : Config) (raw : List Byte) (t : State) : Prop := ∀ s, (feed cfg raw (fpStartAt cfg s)).sameParser t

/-- One more byte, by its case. -/
theorem Reaches.snoc {cfg : Config} {raw : List Byte} {t u : State} {c : Byte} (h : Reaches cfg raw t) (hstep : ByteStep cfg c t u) :
    Reaches cfg (raw ++ [c]) u := by
  intro s
  rw [feed_append]
  exact State.sameParser_trans (fpByteAt_congr cfg c (h s)) hstep.sameParser

/-- More bytes that change nothing. -/
theorem Reaches.ignored {cfg : Config} {raw : List Byte} {t : State} (h : Reaches cfg raw t) (hphase : t.phase = .err)
    (bs : List Byte) : Reaches cfg (raw ++ bs) t := by
  induction bs using List.reverseRecOn with
  | nil => rwa [List.append_nil]
  | append_singleton bs c ih =>
    rw [← List.append_assoc]
    exact ih.snoc (.ignored (.inr hphase))

/-! ### The registers of a frame in progress, from the bytes so far -/

/-- A frame just begun. -/
def frameStart (cfg : Config) : State := (State.resetAt cfg).openFrame cfg

theorem reaches_start (cfg : Config) : Reaches cfg [] (frameStart cfg) := fun _ => State.sameParser_refl _

/-- The header buffer that holds `bs`, as many of them as it has room for, in front. -/
def headerBuffer (bs : List Byte) : Vector Byte hdrMax := Vector.ofFn fun i => byteAt bs i

theorem headerBuffer_nil : headerBuffer [] = Vector.replicate hdrMax 0 := by
  ext i hi
  simp [headerBuffer, byteAt]

theorem headerBuffer_snoc (bs : List Byte) (c : Byte) :
    (headerBuffer bs).setIfInBounds bs.length c = headerBuffer (bs ++ [c]) := by
  ext i hi
  rw [Vector.getElem_setIfInBounds, headerBuffer, headerBuffer, Vector.getElem_ofFn, Vector.getElem_ofFn, byteAt, byteAt]
  rcases Nat.lt_trichotomy i bs.length with h | rfl | h
  · rw [if_neg (Nat.ne_of_gt h), List.getD_append _ _ _ _ h]
  · simp
  · rw [if_neg (Nat.ne_of_lt h), List.getD_eq_default _ _ (Nat.le_of_lt h), List.getD_eq_default _ _ (by simpa using h)]

/-- A header that fits stands whole in the buffer. -/
theorem take_headerBuffer {hb : List Byte} (h : hb.length ≤ hdrMax) : (headerBuffer hb).toList.take hb.length = hb := by
  refine List.ext_getElem (by simpa using h) fun i hi hi' => ?_
  simp [headerBuffer, byteAt, hi']

/-- `bs` of the `b` header bytes have come. -/
def headerStage (cfg : Config) (b : Byte) (bs : List Byte) : State :=
  { frameStart cfg with phase := .header, hlen := b, hcnt := BitVec.ofNat 8 bs.length, hbuf := headerBuffer bs }

/-- A header byte that finds `bs` stored and counted, before the header completes. -/
theorem headerStage_snoc (cfg : Config) (b : Byte) {bs : List Byte} (c : Byte) (h : bs.length < 256) :
    (headerStage cfg b bs).hbuf.setIfInBounds (headerStage cfg b bs).hcnt.toNat c = (headerStage cfg b (bs ++ [c])).hbuf ∧
    (headerStage cfg b bs).hcnt + 1#8 = (headerStage cfg b (bs ++ [c])).hcnt := by
  have hcount : (BitVec.ofNat 8 bs.length).toNat = bs.length := by rw [BitVec.toNat_ofNat]; exact Nat.mod_eq_of_lt h
  constructor
  · change (headerBuffer bs).setIfInBounds (BitVec.ofNat 8 bs.length).toNat c = headerBuffer (bs ++ [c])
    rw [hcount, headerBuffer_snoc]
  · change BitVec.ofNat 8 bs.length + 1#8 = BitVec.ofNat 8 (bs ++ [c]).length
    rw [List.length_append, BitVec.ofNat_add]
    rfl

theorem reaches_headerStage (cfg : Config) {b : Byte} (bs : List Byte) (h : bs.length < b.toNat) :
    Reaches cfg (b :: bs) (headerStage cfg b bs) := by
  induction bs using List.reverseRecOn with
  | nil =>
    have hb : b ≠ 0 := by rintro rfl; exact absurd h (by decide)
    have hstep := (reaches_start cfg).snoc (.length rfl hb)
    rw [headerStage, headerBuffer_nil]
    exact hstep
  | append_singleton bs c ih =>
    rw [List.length_append, List.length_singleton] at h
    obtain ⟨hbuf, hcnt⟩ := headerStage_snoc cfg b c (bs := bs) (by omega)
    have hmore : (headerStage cfg b bs).hcnt + 1#8 ≠ (headerStage cfg b bs).hlen := by
      change BitVec.ofNat 8 bs.length + 1#8 ≠ b
      bv_omega
    have hstep := (ih (by omega)).snoc (.headerMore (c := c) rfl hmore)
    rw [hbuf, hcnt] at hstep
    exact hstep

/-- The byte that completes a header of `b ≠ 0` bytes finds the others stored and counted. -/
theorem lastHeaderByte {cfg : Config} {b : Byte} {hb : List Byte} (hlen : hb.length = b.toNat) (hb0 : b ≠ 0) :
    ∃ bs c, hb = bs ++ [c] ∧ Reaches cfg (b :: bs) (headerStage cfg b bs) ∧
      (headerStage cfg b bs).hbuf.setIfInBounds (headerStage cfg b bs).hcnt.toNat c = headerBuffer hb ∧
      (headerStage cfg b bs).hcnt + 1#8 = BitVec.ofNat 8 hb.length ∧
      (headerStage cfg b bs).hcnt + 1#8 = (headerStage cfg b bs).hlen := by
  have hpos : b.toNat ≠ 0 := fun h => hb0 (BitVec.eq_of_toNat_eq h)
  induction hb using List.reverseRecOn with
  | nil => exact absurd hlen.symm hpos
  | append_singleton bs c _ =>
    have hlt := b.isLt
    rw [List.length_append, List.length_singleton] at hlen
    obtain ⟨hbuf, hcnt⟩ := headerStage_snoc cfg b c (bs := bs) (by omega)
    refine ⟨bs, c, rfl, reaches_headerStage cfg bs (by omega), hbuf, hcnt, ?_⟩
    change BitVec.ofNat 8 bs.length + 1#8 = b
    bv_omega

/-- The header was refused (R146). -/
def refusedStage (cfg : Config) (b : Byte) (hb : List Byte) : State :=
  { headerStage cfg b hb with phase := .err, err := .decodeError }

theorem reaches_refusedStage {cfg : Config} {b : Byte} {hb : List Byte} {e : ErrorKind} (hlen : hb.length = b.toNat)
    (hdecode : decodeHeader cfg hb = .error e) : Reaches cfg (b :: hb) (refusedStage cfg b hb) := by
  by_cases hb0 : b = 0
  · subst hb0
    obtain rfl : hb = [] := List.length_eq_zero_iff.1 hlen
    have hstep := (reaches_start cfg).snoc (.lengthZero rfl rfl)
    rw [refusedStage, headerStage, headerBuffer_nil]
    exact hstep
  · obtain ⟨bs, c, hsplit, hreach, hbuf, hcnt, hlast⟩ := lastHeaderByte (cfg := cfg) hlen hb0
    have hfail : b.toNat < 52 ∨ 72 < b.toNat ∨
        decodeHeader cfg (((headerStage cfg b bs).hbuf.setIfInBounds (headerStage cfg b bs).hcnt.toNat c).toList.take b.toNat) =
          .error .decodeError := by
      rcases Nat.lt_or_ge 72 b.toNat with hbig | hmax
      · exact .inr (.inl hbig)
      · rw [hbuf, ← hlen, take_headerBuffer (hlen.le.trans hmax), ← decodeHeader_error hdecode]
        exact .inr (.inr hdecode)
    have hstep := hreach.snoc (.headerFails rfl hlast hfail)
    rw [hbuf, hcnt] at hstep
    rw [hsplit] at hstep ⊢
    exact hstep

/-- The header decoded to `d`, and then `payload` and `trailer` came. -/
def bodyStage (cfg : Config) (b : Byte) (hb : List Byte) (d : Decoded) (payload trailer : List Byte) : State :=
  { headerStage cfg b hb with
    hdr := d.hdr, hasRecv := d.recv, hasSeq := d.seq, prem := d.hdr.length - BitVec.ofNat 64 payload.length,
    rxCrc := crcFold cfg cfg.crcInit payload, payload := payload,
    trailer := BitVec.ofNat 32 (beNat trailer), tcnt := BitVec.ofNat 3 trailer.length,
    phase := if payload.length = d.hdr.length.toNat then .trailer else .payload }

section body
variable {cfg : Config} {b : Byte} {hb : List Byte} {d : Decoded} (hlen : hb.length = b.toNat)
  (hdecode : decodeHeader cfg hb = .ok d)
include hlen hdecode

theorem reaches_bodyStage_nil : Reaches cfg (b :: hb) (bodyStage cfg b hb d [] []) := by
  obtain ⟨hmin, hmax, -, -⟩ := decodeHeader_ok hdecode
  have hb0 : b ≠ 0 := by rintro rfl; rw [hlen] at hmin; exact absurd hmin (by decide)
  obtain ⟨bs, c, hsplit, hreach, hbuf, hcnt, hlast⟩ := lastHeaderByte (cfg := cfg) hlen hb0
  have hstep := hreach.snoc (.headerDecodes d rfl hlast (hlen ▸ hmin) (hlen ▸ hmax)
    (by rw [hbuf, show (headerStage cfg b bs).hlen.toNat = hb.length from hlen.symm, take_headerBuffer hmax, hdecode]))
  rw [hbuf, hcnt] at hstep
  have hempty : (0 = d.hdr.length.toNat) = (d.hdr.length = 0#64) := by
    refine propext ⟨fun h => BitVec.eq_of_toNat_eq h.symm, fun h => by rw [h]; rfl⟩
  have hprem : d.hdr.length - BitVec.ofNat 64 0 = d.hdr.length := BitVec.sub_zero _
  simp only [bodyStage, List.length_nil, hempty, hprem]
  rw [hsplit] at hstep ⊢
  exact hstep

theorem reaches_payload (payload : List Byte) (h : payload.length ≤ d.hdr.length.toNat) :
    Reaches cfg (b :: (hb ++ payload)) (bodyStage cfg b hb d payload []) := by
  induction payload using List.reverseRecOn with
  | nil => rw [List.append_nil]; exact reaches_bodyStage_nil hlen hdecode
  | append_singleton payload c ih =>
    rw [List.length_append, List.length_singleton] at h
    have hstep := (ih (by omega)).snoc (.payload (c := c) (if_neg (by omega)))
    have hprem : d.hdr.length - BitVec.ofNat 64 payload.length - 1#64 = d.hdr.length - BitVec.ofNat 64 (payload ++ [c]).length := by
      rw [List.length_append, List.length_singleton]
      bv_omega
    have hlast : (d.hdr.length - BitVec.ofNat 64 payload.length = 1#64) = ((payload ++ [c]).length = d.hdr.length.toNat) := by
      rw [List.length_append, List.length_singleton]
      exact propext ⟨fun h => by bv_omega, fun h => by bv_omega⟩
    have hcrc : crcStep cfg (crcFold cfg cfg.crcInit payload) c = crcFold cfg cfg.crcInit (payload ++ [c]) :=
      (crcFold_append cfg cfg.crcInit payload [c]).symm
    simp only [bodyStage, hprem, hlast, hcrc] at hstep
    rw [← List.append_assoc]
    exact hstep

omit hlen hdecode in
/-- A trailer byte that finds `trailer` shifted in and counted (R19). -/
theorem bodyStage_trailer_snoc (payload trailer : List Byte) (c : Byte) :
    (bodyStage cfg b hb d payload trailer).trailer.setWidth 24 ++ c = (bodyStage cfg b hb d payload (trailer ++ [c])).trailer ∧
    (bodyStage cfg b hb d payload trailer).tcnt + 1#3 = (bodyStage cfg b hb d payload (trailer ++ [c])).tcnt := by
  constructor
  · refine BitVec.eq_of_toNat_eq ?_
    change ((BitVec.ofNat 32 (beNat trailer)).setWidth 24 ++ c).toNat = (BitVec.ofNat 32 (beNat (trailer ++ [c]))).toNat
    have hc := c.isLt
    rw [beNat_append_singleton, BitVec.toNat_append, BitVec.toNat_setWidth, BitVec.toNat_ofNat, BitVec.toNat_ofNat,
      ← Nat.shiftLeft_add_eq_or_of_lt hc, Nat.shiftLeft_eq]
    omega
  · change BitVec.ofNat 3 trailer.length + 1#3 = BitVec.ofNat 3 (trailer ++ [c]).length
    rw [List.length_append, BitVec.ofNat_add]
    rfl

theorem reaches_trailer {payload : List Byte} (hpayload : payload.length = d.hdr.length.toNat) (trailer : List Byte)
    (h : trailer.length < 4) :
    Reaches cfg (b :: (hb ++ (payload ++ trailer))) (bodyStage cfg b hb d payload trailer) := by
  induction trailer using List.reverseRecOn with
  | nil => rw [List.append_nil]; exact reaches_payload hlen hdecode payload hpayload.le
  | append_singleton trailer c ih =>
    rw [List.length_append, List.length_singleton] at h
    obtain ⟨hword, hcount⟩ := bodyStage_trailer_snoc (cfg := cfg) (b := b) (hb := hb) (d := d) payload trailer c
    have hmore : (bodyStage cfg b hb d payload trailer).tcnt ≠ 3#3 := by
      change BitVec.ofNat 3 trailer.length ≠ 3#3
      bv_omega
    have hstep := (ih (by omega)).snoc (.trailerMore (c := c) (if_pos hpayload) hmore)
    rw [hword, hcount] at hstep
    rw [← List.append_assoc payload, ← List.append_assoc hb]
    exact hstep

/-- The fourth trailer byte decides the frame. -/
theorem reaches_verdict {payload trailer : List Byte} (hpayload : payload.length = d.hdr.length.toNat)
    (htrailer : trailer.length = 4) :
    Reaches cfg (b :: (hb ++ (payload ++ trailer)))
      (if crc32 cfg payload = BitVec.ofNat 32 (beNat trailer) then { bodyStage cfg b hb d payload trailer with phase := .done }
      else { bodyStage cfg b hb d payload trailer with phase := .err, err := .checksumMismatch }) := by
  obtain ⟨first, c, rfl⟩ : ∃ first c, trailer = first ++ [c] :=
    ⟨_, _, (List.dropLast_append_getLast (by rintro rfl; cases htrailer)).symm⟩
  rw [List.length_append, List.length_singleton] at htrailer
  obtain ⟨hword, hcount⟩ := bodyStage_trailer_snoc (cfg := cfg) (b := b) (hb := hb) (d := d) payload first c
  have hlast : (bodyStage cfg b hb d payload first).tcnt = 3#3 := by
    change BitVec.ofNat 3 first.length = 3#3
    bv_omega
  have hfour : 4#3 = (bodyStage cfg b hb d payload (first ++ [c])).tcnt := by rw [← hcount, hlast]; rfl
  have hreach := reaches_trailer hlen hdecode hpayload first (by omega)
  rw [← List.append_assoc payload, ← List.append_assoc hb]
  by_cases hcrc : crc32 cfg payload = BitVec.ofNat 32 (beNat (first ++ [c]))
  · have hstep := hreach.snoc (.trailerMatches (if_pos hpayload) hlast (hword.trans hcrc.symm))
    rw [hword, hfour] at hstep
    rw [if_pos hcrc]
    exact hstep
  · have hstep := hreach.snoc (.trailerDiffers (if_pos hpayload) hlast fun h => hcrc (hword.symm.trans h).symm)
    rw [hword, hfour] at hstep
    rw [if_neg hcrc]
    exact hstep

end body

/-- Bytes behind a finished frame set `SURPLUS` (R149). -/
theorem Reaches.surplus {cfg : Config} {raw : List Byte} {t : State} (h : Reaches cfg raw t) (hphase : t.phase = .done)
    (extra : List Byte) : Reaches cfg (raw ++ extra) { t with surplus := t.surplus || !extra.isEmpty } := by
  induction extra using List.reverseRecOn with
  | nil => simpa using h
  | append_singleton extra c ih =>
    have hset : (t.surplus || !(extra ++ [c]).isEmpty) = true := by cases extra <;> simp
    rw [← List.append_assoc, hset]
    exact ih.snoc (.surplus hphase)

/-! ### The verdict on the bytes so far -/

/-- The parser stands in `DONE` with the frame `f` in its registers. -/
structure Accepted (f : ParsedFrame) (t : State) : Prop where
  phase : t.phase = .done
  err : t.err = .none
  hdr : t.hdr = f.hdr
  recv : t.hasRecv = f.recv
  seq : t.hasSeq = f.seq
  payload : t.payload = f.payload
  surplus : t.surplus = f.surplus

/-- What `parseFrame` says of a byte sequence, and where the parser stands after it. -/
inductive Verdict (cfg : Config) (raw : List Byte) (t : State) : Prop
  | unfinished (hparse : parseFrame cfg raw = .error .truncatedFrame)
      (hphase : t.phase = .lenPrefix ∨ t.phase = .header ∨ t.phase = .payload ∨ t.phase = .trailer) (herr : t.err = .none)
  | refused (hparse : parseFrame cfg raw = .error .decodeError) (hphase : t.phase = .err) (herr : t.err = .decodeError)
      (hpayload : t.payload = [])
  | mismatch (hparse : parseFrame cfg raw = .error .checksumMismatch) (hphase : t.phase = .err) (herr : t.err = .checksumMismatch)
  | accepted (f : ParsedFrame) (hparse : parseFrame cfg raw = .ok f) (h : Accepted f t) (hhlen : t.hlen = byteAt raw 0)

/-- It speaks of the parser registers only. -/
theorem Verdict.congr {cfg : Config} {raw : List Byte} {t u : State} (h : Verdict cfg raw t) (hsame : t.sameParser u) :
    Verdict cfg raw u := by
  rw [(State.sameParser_iff t u).1 hsame]
  cases h with
  | unfinished hparse hphase herr => exact .unfinished hparse hphase herr
  | refused hparse hphase herr hpayload => exact .refused hparse hphase herr hpayload
  | mismatch hparse hphase herr => exact .mismatch hparse hphase herr
  | accepted f hparse h hhlen => exact .accepted f hparse ⟨h.phase, h.err, h.hdr, h.recv, h.seq, h.payload, h.surplus⟩ hhlen

/-- Every byte sequence leads the parser to the verdict of `parseFrame`, by the shape of the sequence. -/
theorem exists_reaches_verdict (cfg : Config) (raw : List Byte) : ∃ t, Reaches cfg raw t ∧ Verdict cfg raw t := by
  cases frameShape cfg raw with
  | empty => exact ⟨_, reaches_start cfg, .unfinished rfl (.inl rfl) rfl⟩
  | shortHeader b rest hlen =>
    exact ⟨_, reaches_headerStage cfg rest hlen, .unfinished (parseFrame_shortHeader cfg hlen) (.inr (.inl rfl)) rfl⟩
  | badHeader b hb body e hlen hdecode =>
    exact ⟨_, (reaches_refusedStage hlen hdecode).ignored rfl body,
      .refused (parseFrame_badHeader cfg body hlen hdecode) rfl rfl rfl⟩
  | shortPayload b hb payload d hlen hdecode hpayload =>
    exact ⟨_, reaches_payload hlen hdecode payload hpayload.le, .unfinished (parseFrame_shortBody cfg hlen hdecode (by omega))
      (.inr (.inr (.inl (if_neg (by omega))))) rfl⟩
  | shortTrailer b hb payload trailer d hlen hdecode hpayload htrailer =>
    have hbody : (payload ++ trailer).length < d.hdr.length.toNat + 4 := by rw [List.length_append]; omega
    exact ⟨_, reaches_trailer hlen hdecode hpayload trailer htrailer,
      .unfinished (parseFrame_shortBody cfg hlen hdecode hbody) (.inr (.inr (.inr (if_pos hpayload)))) rfl⟩
  | complete b hb payload trailer extra d hlen hdecode hpayload htrailer =>
    have hreach := reaches_verdict hlen hdecode hpayload htrailer
    have hparse := parseFrame_complete cfg extra hlen hdecode hpayload htrailer
    rw [← List.append_assoc payload, ← List.append_assoc hb, ← List.cons_append] at hparse ⊢
    split at hparse
    · next hcrc =>
      rw [if_pos hcrc] at hreach
      exact ⟨_, hreach.surplus rfl extra, .accepted _ hparse ⟨rfl, rfl, rfl, rfl, rfl, rfl, rfl⟩ rfl⟩
    · next hcrc =>
      rw [if_neg hcrc] at hreach
      exact ⟨_, hreach.ignored rfl extra, .mismatch hparse rfl rfl⟩

/-- The verdict after `FP.START` and the bytes, from any state. -/
theorem verdict_feed (cfg : Config) (raw : List Byte) (s : State) : Verdict cfg raw (feed cfg raw (fpStartAt cfg s)) := by
  obtain ⟨t, hreach, hverdict⟩ := exists_reaches_verdict cfg raw
  exact hverdict.congr (State.sameParser_symm (hreach s))

/-- Where the parser stands when the frame has been ended: one of two ways. -/
inductive Ended (cfg : Config) (raw : List Byte) (t : State) : Prop
  | accepted (f : ParsedFrame) (hparse : parseFrame cfg raw = .ok f) (h : Accepted f t) (hhlen : t.hlen = byteAt raw 0)
  | failed (e : ErrorKind) (hparse : parseFrame cfg raw = .error e) (hphase : t.phase = .err) (hkind : t.err.kind = some e)

/-- The end of the frame makes an unfinished one a truncated one, and leaves any other verdict (R150). -/
theorem Verdict.ended {cfg : Config} {raw : List Byte} {t : State} (h : Verdict cfg raw t) : Ended cfg raw (fpEndAt t) := by
  cases h with
  | unfinished hparse hphase herr =>
    rw [fpEndAt_inProgress hphase]
    exact .failed _ hparse rfl rfl
  | refused hparse hphase herr hpayload =>
    rw [fpEndAt_ignored (.inr hphase)]
    exact .failed _ hparse hphase (congrArg ErrCode.kind herr)
  | mismatch hparse hphase herr =>
    rw [fpEndAt_ignored (.inr hphase)]
    exact .failed _ hparse hphase (congrArg ErrCode.kind herr)
  | accepted f hparse h hhlen =>
    rw [fpEndAt_done h.phase]
    exact .accepted f hparse ⟨h.phase, h.err, h.hdr, h.recv, h.seq, h.payload, h.surplus⟩ hhlen

theorem ended_parseAt (cfg : Config) (raw : List Byte) (s : State) : Ended cfg raw (parseAt cfg raw s) :=
  (verdict_feed cfg raw s).ended

theorem feed_crcAcc (cfg : Config) (bs : List Byte) (s : State) : (feed cfg bs s).crcAcc = s.crcAcc := by
  induction bs generalizing s with
  | nil => rfl
  | cons c rest ih => exact (ih _).trans (fpByteAt_host cfg c s).1

theorem parseAt_crcAcc (cfg : Config) (raw : List Byte) (s : State) : (parseAt cfg raw s).crcAcc = s.crcAcc :=
  (effect_crcAcc (i := .fpEnd) rfl _).trans (feed_crcAcc cfg raw (fpStartAt cfg s))

/-- The payload in the registers is what came out on `pay` (R26). -/
theorem payBytes_fpParse (raw : List Byte) (s : State) : payBytes (fpParse raw) s = (parseAt Config.spec raw s).payload := by
  have hprog : Instr.fpStart ∉ fpFeed raw ++ [.fpEnd] := by simp [fpFeed]
  obtain ⟨-, hpay⟩ := payloadIsWhatPayCarried
  obtain ⟨t, hrun, hpayload⟩ := hpay (fpFeed raw ++ [.fpEnd]) s hprog
  have hend : parseAt Config.spec raw s = t := by
    have h := (runInstrs_fpParse raw s).symm.trans hrun
    injection h
  rw [hend]
  exact hpayload.symm

/-- Settles O42: `FP.END` after the verdict on all the bytes. -/
theorem machineAgreesWithParseFrameForEveryParameter : Obligations.MachineAgreesWithParseFrameForEveryParameter := by
  unfold Obligations.MachineAgreesWithParseFrameForEveryParameter
  intro cfg raw s
  cases ended_parseAt cfg raw s with
  | accepted f hparse h hhlen => rw [hparse]; exact ⟨h.phase, h.hdr, h.recv, h.seq, h.payload, h.surplus⟩
  | failed e hparse hphase hkind => rw [hparse]; exact ⟨hphase, hkind⟩

/-- Settles O41: the unit runs the parser at the values of R6. -/
theorem machineAgreesWithParseFrame : Obligations.MachineAgreesWithParseFrame := by
  unfold Obligations.MachineAgreesWithParseFrame
  intro raw s
  refine ⟨_, runInstrs_fpParse raw s, parseAt_crcAcc Config.spec raw s, ?_⟩
  rw [payBytes_fpParse]
  cases ended_parseAt Config.spec raw s with
  | accepted f hparse h hhlen =>
    rw [hparse]
    exact ⟨h.phase, h.err, h.hdr, h.recv, h.seq, h.payload, h.payload, h.surplus, hhlen⟩
  | failed e hparse hphase hkind => rw [hparse]; exact ⟨hphase, hkind⟩

/-! ### The verdict comes at the byte that determines it -/

/-- Once the bytes determine a verdict, more of them change nothing but the surplus. -/
theorem parseFrame_append {cfg : Config} {raw : List Byte} (ext : List Byte)
    (h : parseFrame cfg raw ≠ .error .truncatedFrame) :
    parseFrame cfg (raw ++ ext) = (parseFrame cfg raw).map fun f => { f with surplus := f.surplus || !ext.isEmpty } := by
  cases frameShape cfg raw with
  | empty => exact absurd rfl h
  | shortHeader b rest hlen => exact absurd (parseFrame_shortHeader cfg hlen) h
  | badHeader b hb body e hlen hdecode =>
    rw [List.cons_append, List.append_assoc, parseFrame_badHeader cfg _ hlen hdecode, parseFrame_badHeader cfg _ hlen hdecode]
    rfl
  | shortPayload b hb payload d hlen hdecode hpayload => exact absurd (parseFrame_shortBody cfg hlen hdecode (by omega)) h
  | shortTrailer b hb payload trailer d hlen hdecode hpayload htrailer =>
    exact absurd (parseFrame_shortBody cfg hlen hdecode (by rw [List.length_append]; omega)) h
  | complete b hb payload trailer extra d hlen hdecode hpayload htrailer =>
    have hempty : (!(extra ++ ext).isEmpty) = (!extra.isEmpty || !ext.isEmpty) := by cases extra <;> simp
    rw [List.cons_append, List.append_assoc, List.append_assoc, List.append_assoc,
      parseFrame_complete cfg extra hlen hdecode hpayload htrailer,
      parseFrame_complete cfg (extra ++ ext) hlen hdecode hpayload htrailer, hempty]
    split
    · rfl
    · rfl

/-- Before the end of the frame, the phase and the error tell the verdict, and no frame is truncated yet. -/
theorem Verdict.phase_iff {cfg : Config} {raw : List Byte} {t : State} (h : Verdict cfg raw t) :
    ((t.phase = .err ∧ t.err = .decodeError) ↔ parseFrame cfg raw = .error .decodeError) ∧
    ((t.phase = .err ∧ t.err = .checksumMismatch) ↔ parseFrame cfg raw = .error .checksumMismatch) ∧
    (t.phase = .done ↔ ∃ f, parseFrame cfg raw = .ok f) ∧ t.err ≠ .truncatedFrame := by
  cases h with
  | unfinished hparse hphase herr =>
    have hopen : t.phase ≠ .err ∧ t.phase ≠ .done := by obtain h | h | h | h := hphase <;> simp [h]
    simp [hparse, hopen, herr]
  | refused hparse hphase herr hpayload => simp [hparse, hphase, herr]
  | mismatch hparse hphase herr => simp [hparse, hphase, herr]
  | accepted f hparse h hhlen => simp [hparse, h.phase, h.err]

/-- Settles O43: the verdict so far tells the phase, and stands whatever follows. -/
theorem verdictComesAtTheByteThatDeterminesIt : Obligations.VerdictComesAtTheByteThatDeterminesIt := by
  unfold Obligations.VerdictComesAtTheByteThatDeterminesIt
  intro raw s
  obtain ⟨hdecode, hchecksum, hdone, htruncated⟩ := (verdict_feed Config.spec raw s).phase_iff
  refine ⟨_, ?_, hdecode, hchecksum, hdone, htruncated, fun ext hparse => ?_, fun ext hparse => ?_, fun ext f hparse => ?_⟩
  · rw [runInstrs_cons, runInstrs_fpFeed]
    rfl
  · rw [parseFrame_append ext (by simp [hparse]), hparse]; rfl
  · rw [parseFrame_append ext (by simp [hparse]), hparse]; rfl
  · rw [parseFrame_append ext (by simp [hparse]), hparse]; rfl

end Sys2Proof.Machine
end

section
/-! Proofs: a header whose receiver the legacy encoder left out is refused (30_encoding.md R75, 41_presence.md R127). -/

namespace Sys2Proof.Machine

theorem config_spec_wf : Config.spec.wf = true := by decide +kernel

theorem eq_decodeError_of_kind {e : ErrCode} (h : e.kind = some .decodeError) : e = .decodeError := by
  cases e <;> simp [ErrCode.kind] at h ⊢

theorem legacyEncodeHeader_eq (cfg : Config) (h : Header) (now : Dword) :
    legacyEncodeHeader cfg (some h) now = .ok (fixedHeader cfg (fillTimestamp now h) ++
      optionalBlocks cfg (legacyRecvPresent cfg (fillTimestamp now h)) (isDatagram cfg (fillTimestamp now h).protocol)
        (fillTimestamp now h)) := rfl

/-- The header that the legacy encoder makes of a broadcast with a zero receiver: a broadcast by its control byte, without the block. -/
theorem legacy_header_refused {h : Header} {now : Dword} {hb : List Byte} (hm : h.msgType = Config.spec.mtBroadcast)
    (hr : h.receiver = 0) (henc : legacyEncodeHeader Config.spec (some h) now = .ok hb) :
    (hb.length = 52 ∨ hb.length = 56) ∧ decodeHeader Config.spec hb = .error .decodeError := by
  obtain ⟨hmsgType, -, -, hreceiver, -⟩ := fillTimestamp_controls now h
  have hbroadcast : isBroadcast Config.spec (fillTimestamp now h).msgType = true := by rw [hmsgType, hm]; rfl
  have habsent : legacyRecvPresent Config.spec (fillTimestamp now h) = false := by
    rw [legacyRecvPresent, hreceiver, hr]
    exact Bool.and_false _
  rw [legacyEncodeHeader_eq, habsent] at henc
  cases henc
  obtain ⟨-, hbyte, -, hprotocol⟩ := byteAt_fixedHeader_of_wf config_spec_wf (fillTimestamp now h)
    (optionalBlocks Config.spec false (isDatagram Config.spec (fillTimestamp now h).protocol) (fillTimestamp now h))
  have himplied : (presence Config.spec (fillTimestamp now h).msgType (fillTimestamp now h).protocol).len =
      68 + if isDatagram Config.spec (fillTimestamp now h).protocol then 4 else 0 := by
    rw [presence, hbroadcast]
    rfl
  have hlen : (fixedHeader Config.spec (fillTimestamp now h) ++ optionalBlocks Config.spec false
      (isDatagram Config.spec (fillTimestamp now h).protocol) (fillTimestamp now h)).length =
      52 + if isDatagram Config.spec (fillTimestamp now h).protocol then 4 else 0 := by
    rw [List.length_append, length_fixedHeader, length_optionalBlocks, if_neg Bool.false_ne_true, Nat.zero_add]
    rfl
  constructor
  · rw [hlen]
    cases isDatagram Config.spec (fillTimestamp now h).protocol
    · exact .inl rfl
    · exact .inr rfl
  · rw [decodeHeader_eq_ite Config.spec _ _ (congrArg₂ (presence Config.spec) hbyte hprotocol), himplied, hlen, if_neg (by omega)]

/-- A frame refused at its header has passed no payload out. -/
theorem parseAt_payload_of_refused {cfg : Config} {raw : List Byte} (h : parseFrame cfg raw = .error .decodeError) (s : State) :
    (parseAt cfg raw s).payload = [] := by
  rw [parseAt_eq, (fpEndAt_pay_payload _).2]
  cases verdict_feed cfg raw s with
  | unfinished hparse hphase herr => rw [h] at hparse; cases hparse
  | refused hparse hphase herr hpayload => exact hpayload
  | mismatch hparse hphase herr => rw [h] at hparse; cases hparse
  | accepted f hparse haccepted hhlen => rw [h] at hparse; cases hparse

/-- Apart from a broadcast with a zero receiver, the two encoders write the same blocks. -/
theorem legacyEncodeHeader_eq_encodeHeader {h : Header} (now : Dword)
    (hother : ¬(h.msgType = Config.spec.mtBroadcast ∧ h.receiver = 0)) :
    legacyEncodeHeader Config.spec (some h) now = encodeHeader Config.spec (some h) now := by
  obtain ⟨hmsgType, -, -, hreceiver, -⟩ := fillTimestamp_controls now h
  have hsame : legacyRecvPresent Config.spec (fillTimestamp now h) = isBroadcast Config.spec (fillTimestamp now h).msgType := by
    rw [legacyRecvPresent, hmsgType, hreceiver]
    by_cases hm : h.msgType = Config.spec.mtBroadcast
    · rw [bne_iff_ne.2 fun hr => hother ⟨hm, hr⟩, Bool.and_true]
    · rw [isBroadcast, beq_false_of_ne hm, Bool.false_and]
  rw [legacyEncodeHeader_eq, encodeHeader_eq, hsame]

/-- Settles O25: the header is refused, hence the frame laid out around it, and the unit agrees with the parser function. -/
theorem legacyBroadcastWithZeroReceiverIsRefused : Obligations.LegacyBroadcastWithZeroReceiverIsRefused := by
  unfold Obligations.LegacyBroadcastWithZeroReceiverIsRefused
  refine ⟨fun h now hb payload s hm hr henc => ?_, fun h now hother => legacyEncodeHeader_eq_encodeHeader now hother⟩
  obtain ⟨hlen, hdecode⟩ := legacy_header_refused hm hr henc
  have hfits : hb.length ≤ hdrMax := by obtain h | h := hlen <;> rw [h] <;> decide
  have hparse : parseFrame Config.spec (layFrame Config.spec hb payload) = .error .decodeError := by
    rw [layFrame, List.append_assoc]
    exact parseFrame_badHeader Config.spec _ (toNat_ofNat_length hfits) hdecode
  refine ⟨hlen, hdecode, hparse, ?_, _, runInstrs_fpParse _ s, ?_⟩
  · rw [payBytes_fpParse, parseAt_payload_of_refused hparse]
  · cases ended_parseAt Config.spec (layFrame Config.spec hb payload) s with
    | accepted f hok h hhlen => rw [hparse] at hok; cases hok
    | failed e herror hphase hkind =>
      rw [hparse] at herror
      cases herror
      exact ⟨hphase, eq_decodeError_of_kind hkind⟩

end Sys2Proof.Machine
end

section
/-! Proofs: what the checksum catches and what it does not (40_crc.md R104, R105; 70_reset_and_hazards.md R209; 95_test_vectors.md S3). -/

namespace Sys2Proof.Machine

/-! ### A changed payload byte -/

theorem byteAt_set {s : List Byte} {i : Nat} (b : Byte) (hi : i < s.length) (j : Nat) :
    byteAt (s.set i b) j = if j = i then b else byteAt s j := by
  rw [byteAt, byteAt, List.getD_eq_getElem?_getD, List.getElem?_set]
  by_cases h : i = j
  · subst h
    simp [hi]
  · rw [if_neg h, if_neg (Ne.symm h), List.getD_eq_getElem?_getD]

/-- Changing one byte of a sequence changes its code: the change is confined to eight bits. -/
theorem crc32_set_ne {s : List Byte} {i : Nat} {b : Byte} (hi : i < s.length) (hb : b ≠ byteAt s i) :
    crc32 Config.spec (s.set i b) ≠ crc32 Config.spec s := by
  refine shortBurstChangesTheCode Config.spec (s.set i b) s (8 * i) rfl (by decide) (List.length_set ..) (fun heq => hb ?_)
    fun k hk => ?_
  · have hbyte := byteAt_set b hi i
    rw [heq, if_pos rfl] at hbyte
    exact hbyte.symm
  · rw [streamBit, streamBit, byteAt_set b hi, if_neg (by omega)]

/-- The bytes of a frame by their place: the payload begins behind the length byte and the header. -/
theorem set_payload (b : Byte) (hb payload rest : List Byte) {i : Nat} (c : Byte) (hi : i < payload.length) :
    (b :: (hb ++ (payload ++ rest))).set (1 + hb.length + i) c = b :: (hb ++ (payload.set i c ++ rest)) := by
  rw [show 1 + hb.length + i = hb.length + i + 1 by omega, List.set_cons_succ, List.set_append_right _ _ (by omega),
    Nat.add_sub_cancel_left, List.set_append_left _ _ hi]

theorem byteAt_payload (b : Byte) (hb payload rest : List Byte) {i : Nat} (hi : i < payload.length) :
    byteAt (b :: (hb ++ (payload ++ rest))) (1 + hb.length + i) = byteAt payload i := by
  rw [byteAt, byteAt, show 1 + hb.length + i = hb.length + i + 1 by omega, List.getD_cons_succ,
    List.getD_append_right _ _ _ _ (by omega), Nat.add_sub_cancel_left, List.getD_append _ _ _ _ hi]

/-- Settles O57: the frame keeps its parts, and the payload's code is no longer the trailer. -/
theorem changedPayloadByteIsCaught : Obligations.ChangedPayloadByteIsCaught := by
  unfold Obligations.ChangedPayloadByteIsCaught
  intro raw f i c hparse hi hc
  obtain ⟨b, hb, payload, trailer, extra, d, rfl, hlen, hdecode, hpayload, htrailer, hcrc, rfl⟩ := parts_of_parseFrame_ok hparse
  rw [show byteAt (b :: (hb ++ (payload ++ (trailer ++ extra)))) 0 = b from rfl, ← hlen] at hc ⊢
  rw [byteAt_payload b hb payload _ hi] at hc
  have hchanged : crc32 Config.spec (payload.set i c) ≠ BitVec.ofNat 32 (beNat trailer) := hcrc ▸ crc32_set_ne hi hc
  rw [set_payload b hb payload _ c hi,
    parseFrame_complete Config.spec extra hlen hdecode ((List.length_set ..).trans hpayload) htrailer, if_neg hchanged]

/-! ### A changed header byte (R209) -/

/-- The `Length` bytes are not touched by a change elsewhere. -/
theorem slice_length_set {hb : List Byte} {i : Nat} (c : Byte) (hi : i < 40 ∨ 48 ≤ i) :
    slice (hb.set i c) 40 48 = slice hb 40 48 := by
  refine List.ext_getElem? fun j => ?_
  rw [slice, slice, List.getElem?_take, List.getElem?_take, List.getElem?_drop, List.getElem?_drop]
  by_cases hj : j < 48 - 40
  · rw [if_pos hj, if_pos hj, List.getElem?_set_ne (by omega)]
  · rw [if_neg hj, if_neg hj]

/-- A predicate that reads the byte at `o` keeps its value where the change keeps it. -/
theorem predicate_byteAt_set {p : Byte → Bool} {hb : List Byte} {i o : Nat} {c : Byte} (hi : i < hb.length)
    (hkeep : i = o → p c = p (byteAt hb o)) : p (byteAt (hb.set i c) o) = p (byteAt hb o) := by
  rw [byteAt_set c hi]
  by_cases h : o = i
  · rw [if_pos h]; exact hkeep h.symm
  · rw [if_neg h]

/-- A header changed in this way still decodes, with the same presence and `Length`. -/
theorem decodeHeader_set {hb : List Byte} {i : Nat} {c : Byte} {d : Decoded} (hdecode : decodeHeader Config.spec hb = .ok d)
    (hi : i < hb.length) (hlength : i < 40 ∨ 48 ≤ i) (hm : i = 49 → isBroadcast Config.spec c = d.recv)
    (hp : i = 51 → isDatagram Config.spec c = d.seq) :
    ∃ d', decodeHeader Config.spec (hb.set i c) = .ok d' ∧ d'.recv = d.recv ∧ d'.seq = d.seq ∧ d'.hdr.length = d.hdr.length := by
  obtain ⟨-, -, hlen, rfl⟩ := decodeHeader_ok hdecode
  have hrecv := predicate_byteAt_set (p := isBroadcast Config.spec) hi hm
  have hseq := predicate_byteAt_set (p := isDatagram Config.spec) hi hp
  have hpresence : presence Config.spec (byteAt (hb.set i c) 49) (byteAt (hb.set i c) 51) =
      presence Config.spec (byteAt hb 49) (byteAt hb 51) := by
    rw [presence, presence, hrecv, hseq]
  refine ⟨_, (decodeHeader_eq_ite Config.spec _ _ hpresence).trans (if_pos (hlen.trans (List.length_set ..).symm)), rfl, rfl, ?_⟩
  exact congrArg (BitVec.ofNat 64 <| beNat ·) (slice_length_set c hlength)

/-- Settles O58: the header is not covered by the checksum, and it still decodes to the same lengths. -/
theorem changedHeaderByteIsNotCaught : Obligations.ChangedHeaderByteIsNotCaught := by
  unfold Obligations.ChangedHeaderByteIsNotCaught
  intro raw f i c hparse hi hlength hm hp
  obtain ⟨b, hb, payload, trailer, extra, d, rfl, hlen, hdecode, hpayload, htrailer, hcrc, rfl⟩ := parts_of_parseFrame_ok hparse
  have hi' : i < hb.length := hlen ▸ hi
  obtain ⟨d', hdecode', hrecv, hseq, hlength'⟩ := decodeHeader_set hdecode hi' hlength hm hp
  refine ⟨⟨d'.hdr, d'.recv, d'.seq, payload, !extra.isEmpty⟩, ?_, rfl, rfl, hrecv, hseq, hlength'⟩
  rw [Nat.add_comm 1 i, List.set_cons_succ, List.set_append_left _ _ hi',
    parseFrame_complete Config.spec extra ((List.length_set ..).trans hlen) hdecode' (hlength'.symm ▸ hpayload) htrailer, if_pos hcrc]

/-! ### A cut frame -/

/-- Settles O59: a beginning of the frame ends in the header or in its body. -/
theorem cutFrameIsTruncated : Obligations.CutFrameIsTruncated := by
  unfold Obligations.CutFrameIsTruncated
  intro raw f k hparse hk
  obtain ⟨b, hb, payload, trailer, extra, d, rfl, hlen, hdecode, hpayload, htrailer, hcrc, rfl⟩ := parts_of_parseFrame_ok hparse
  rw [show byteAt (b :: (hb ++ (payload ++ (trailer ++ extra)))) 0 = b from rfl] at hk
  cases k with
  | zero => rfl
  | succ k =>
    rw [List.take_succ_cons]
    rcases Nat.lt_or_ge k hb.length with hcut | hcut
    · exact parseFrame_shortHeader Config.spec (by rw [List.length_take]; omega)
    · rw [List.take_append, List.take_of_length_le hcut]
      exact parseFrame_shortBody Config.spec hlen hdecode (by rw [List.length_take]; dsimp only at hk; omega)

end Sys2Proof.Machine
end

section
/-! Proofs: `ReadFrame` on the unit, as the two transports drive it (42_frame_parser.md R160 to R162). -/

namespace Sys2Proof.Machine

/-! ### What the caller gets (R162) -/

theorem Accepted.read {f : ParsedFrame} {t : State} (h : Accepted f t) :
    t.readResult = some (.ok ⟨f.hdr, f.recv, f.seq, f.payload⟩) ∧
    headerOfReads (responses headerReads t) = some (f.hdr, f.recv, f.seq) ∧ t.releasable = some f.payload := by
  refine ⟨?_, ?_, ?_⟩
  · simp only [State.readResult, h.phase, h.hdr, h.recv, h.seq, h.payload]
  · rw [headerOfReads_done h.phase, h.hdr, h.recv, h.seq]
  · rw [State.releasable, if_pos h.phase, h.payload]

theorem read_of_failed {t : State} {e : ErrorKind} (hphase : t.phase = .err) (hkind : t.err.kind = some e) :
    t.readResult = some (.error e) ∧ headerOfReads (responses headerReads t) = none ∧ t.releasable = none := by
  have hnotDone : t.phase ≠ .done := by rw [hphase]; decide
  refine ⟨?_, headerOfReads_not_done hnotDone, if_neg hnotDone⟩
  simp only [State.readResult, hphase, hkind]
  rfl

/-! ### The stream driver, read by read (R160) -/

theorem readExact_append {n : Nat} {x : List Byte} (y : List Byte) (h : x.length = n) : readExact n (x ++ y) = some (x, y) := by
  subst h
  simp [readExact]

theorem readExact_short {n : Nat} {s : List Byte} (h : s.length < n) : readExact n s = none := if_neg (Nat.not_le_of_lt h)

theorem shortRead_eq (came : List Byte) (s : State) :
    shortRead came s = endRead [] (fpEndAt (feed Config.spec came s)) := by
  rw [shortRead, runInstrs_append, runInstrs_fpFeed, andThen_next, runInstrs_cons]
  rfl

theorem streamReadFrame_nil (s : State) : streamReadFrame [] s = endRead [] (parseAt Config.spec [] s) := by
  rw [streamReadFrame, runInstrs_cons, runInstrs_nil, andThen_next, readExact_short (by decide)]
  exact shortRead_eq [] _

theorem streamReadFrame_cons (b : Byte) (rest : List Byte) (s : State) :
    streamReadFrame (b :: rest) s = streamReadHeader rest (feed Config.spec [b] (fpStartAt Config.spec s)) := by
  rw [streamReadFrame, runInstrs_cons, runInstrs_nil, andThen_next,
    show readExact prefixLen (b :: rest) = some ([b], rest) from readExact_append (x := [b]) rest rfl]
  simp only [runInstrs_fpFeed, andThen_next]
  rfl

section reads
variable {s : State}

theorem streamReadHeader_err (stream : List Byte) (h : s.phase = .err) : streamReadHeader stream s = endRead stream s := if_pos h

theorem streamReadHeader_short {stream : List Byte} (h : s.phase ≠ .err) (hshort : stream.length < s.hlen.toNat) :
    streamReadHeader stream s = endRead [] (fpEndAt (feed Config.spec stream s)) := by
  rw [streamReadHeader, if_neg h, readExact_short hshort]
  exact shortRead_eq stream s

theorem streamReadHeader_append {hb : List Byte} (body : List Byte) (h : s.phase ≠ .err) (hlen : hb.length = s.hlen.toNat) :
    streamReadHeader (hb ++ body) s = streamReadBody body (feed Config.spec hb s) := by
  rw [streamReadHeader, if_neg h, readExact_append body hlen]
  simp only [runInstrs_fpFeed, andThen_next]

theorem streamReadBody_err (stream : List Byte) (h : s.phase = .err) : streamReadBody stream s = endRead stream s := if_pos h

theorem streamReadBody_short {stream : List Byte} (h : s.phase ≠ .err) (hshort : stream.length < s.prem.toNat + 4) :
    streamReadBody stream s = endRead [] (fpEndAt (feed Config.spec stream s)) := by
  rw [streamReadBody, if_neg h, trailerLen, readExact_short hshort]
  exact shortRead_eq stream s

theorem streamReadBody_append {bs : List Byte} (rest : List Byte) (h : s.phase ≠ .err) (hlen : bs.length = s.prem.toNat + 4) :
    streamReadBody (bs ++ rest) s = endRead rest (feed Config.spec bs s) := by
  rw [streamReadBody, if_neg h, trailerLen, readExact_append rest hlen]
  simp only [runInstrs_fpFeed, andThen_next]

end reads

/-- A length byte other than 0 opens the header. -/
theorem feed_lengthByte {b : Byte} (hpos : 0 < b.toNat) (s : State) :
    (feed Config.spec [b] (fpStartAt Config.spec s)).phase = .header ∧
    (feed Config.spec [b] (fpStartAt Config.spec s)).hlen = b := by
  obtain ⟨hphase, -, hhlen, -⟩ := reaches_headerStage Config.spec [] hpos s
  exact ⟨hphase, hhlen⟩

/-- With its header there and decoded, a frame's stream read goes on with the body from there. -/
theorem streamReadFrame_of_header (b : Byte) {hb : List Byte} (body : List Byte) (s : State) (hlen : hb.length = b.toNat)
    (hb0 : b ≠ 0) :
    streamReadFrame (b :: (hb ++ body)) s = streamReadBody body (feed Config.spec (b :: hb) (fpStartAt Config.spec s)) := by
  have hpos : 0 < b.toNat := Nat.pos_of_ne_zero fun h => hb0 (BitVec.eq_of_toNat_eq h)
  obtain ⟨hphase, hhlen⟩ := feed_lengthByte hpos s
  have hopen : (feed Config.spec [b] (fpStartAt Config.spec s)).phase ≠ .err := by rw [hphase]; decide
  rw [streamReadFrame_cons, streamReadHeader_append body hopen (by rw [hhlen]; exact hlen), ← feed_append]
  rfl

/-- After a header that decodes, the parser waits for the payload and the trailer. -/
theorem feed_header_decoded {b : Byte} {hb : List Byte} {d : Decoded} (hlen : hb.length = b.toNat)
    (hdecode : decodeHeader Config.spec hb = .ok d) (s : State) :
    (feed Config.spec (b :: hb) (fpStartAt Config.spec s)).phase ≠ .err ∧
    (feed Config.spec (b :: hb) (fpStartAt Config.spec s)).prem = d.hdr.length := by
  obtain ⟨hphase, -, -, -, -, hprem, -⟩ := reaches_bodyStage_nil hlen hdecode s
  constructor
  · rw [hphase, bodyStage]
    dsimp only
    split
    · decide
    · decide
  · rw [hprem]
    exact BitVec.sub_zero _

theorem ne_zero_of_decodeHeader_ok {b : Byte} {hb : List Byte} {d : Decoded} (hlen : hb.length = b.toNat)
    (hdecode : decodeHeader Config.spec hb = .ok d) : b ≠ 0 := by
  obtain ⟨hmin, -, -, -⟩ := decodeHeader_ok hdecode
  rintro rfl
  rw [hlen] at hmin
  exact absurd hmin (by decide)

/-- A stream that ends inside the body of its frame. -/
theorem streamReadFrame_shortBody {b : Byte} {hb body : List Byte} {d : Decoded} (hlen : hb.length = b.toNat)
    (hdecode : decodeHeader Config.spec hb = .ok d) (hbody : body.length < d.hdr.length.toNat + 4) (s : State) :
    streamReadFrame (b :: (hb ++ body)) s = endRead [] (parseAt Config.spec (b :: (hb ++ body)) s) := by
  obtain ⟨hopen, hprem⟩ := feed_header_decoded hlen hdecode s
  rw [streamReadFrame_of_header b body s hlen (ne_zero_of_decodeHeader_ok hlen hdecode),
    streamReadBody_short hopen (by rw [hprem]; exact hbody), ← feed_append]
  rfl

/-- The stream driver ends with the verdict on the bytes it took: all of a stream that ends too early, else those of the frame. -/
theorem streamReadFrame_eq (raw : List Byte) (s : State) :
    (∃ t rest e, streamReadFrame raw s = endRead rest t ∧ parseFrame Config.spec raw = .error e ∧ t.phase = .err ∧
      t.err.kind = some e) ∨
    (∃ t f, streamReadFrame raw s = endRead (raw.drop (1 + (byteAt raw 0).toNat + f.payload.length + 4)) t ∧
      parseFrame Config.spec raw = .ok f ∧ Accepted { f with surplus := false } t) := by
  have htruncated (hread : streamReadFrame raw s = endRead [] (parseAt Config.spec raw s))
      (hparse : parseFrame Config.spec raw = .error .truncatedFrame) : ∃ t rest e, streamReadFrame raw s = endRead rest t ∧
        parseFrame Config.spec raw = .error e ∧ t.phase = .err ∧ t.err.kind = some e := by
    cases ended_parseAt Config.spec raw s with
    | accepted f hok h hhlen => rw [hparse] at hok; cases hok
    | failed e herror hphase hkind => exact ⟨_, _, e, hread, herror, hphase, hkind⟩
  cases frameShape Config.spec raw with
  | empty => exact .inl (htruncated (streamReadFrame_nil s) rfl)
  | shortHeader b rest hlen =>
    have hpos : 0 < b.toNat := Nat.zero_lt_of_lt hlen
    obtain ⟨hphase, hhlen⟩ := feed_lengthByte hpos s
    have hopen : (feed Config.spec [b] (fpStartAt Config.spec s)).phase ≠ .err := by rw [hphase]; decide
    refine .inl (htruncated ?_ (parseFrame_shortHeader Config.spec hlen))
    rw [streamReadFrame_cons, streamReadHeader_short hopen (by rw [hhlen]; exact hlen), ← feed_append]
    rfl
  | badHeader b hb body e hlen hdecode =>
    obtain ⟨hphase, herr, -⟩ := reaches_refusedStage hlen hdecode s
    refine .inl ⟨feed Config.spec (b :: hb) (fpStartAt Config.spec s), body, .decodeError, ?_,
      parseFrame_badHeader Config.spec body hlen hdecode, hphase, congrArg ErrCode.kind herr⟩
    by_cases hb0 : b = 0
    · subst hb0
      obtain rfl : hb = [] := List.length_eq_zero_iff.1 hlen
      rw [streamReadFrame_cons]
      exact streamReadHeader_err body hphase
    · rw [streamReadFrame_of_header b body s hlen hb0, streamReadBody_err body hphase]
  | shortPayload b hb payload d hlen hdecode hpayload =>
    exact .inl (htruncated (streamReadFrame_shortBody hlen hdecode (by omega) s)
      (parseFrame_shortBody Config.spec hlen hdecode (by omega)))
  | shortTrailer b hb payload trailer d hlen hdecode hpayload htrailer =>
    have hbody : (payload ++ trailer).length < d.hdr.length.toNat + 4 := by rw [List.length_append]; omega
    exact .inl (htruncated (streamReadFrame_shortBody hlen hdecode hbody s) (parseFrame_shortBody Config.spec hlen hdecode hbody))
  | complete b hb payload trailer extra d hlen hdecode hpayload htrailer =>
    obtain ⟨hopen, hprem⟩ := feed_header_decoded hlen hdecode s
    have hread : streamReadFrame (b :: (hb ++ (payload ++ (trailer ++ extra)))) s =
        endRead extra (feed Config.spec (b :: (hb ++ (payload ++ trailer))) (fpStartAt Config.spec s)) := by
      rw [streamReadFrame_of_header b _ s hlen (ne_zero_of_decodeHeader_ok hlen hdecode), ← List.append_assoc payload,
        streamReadBody_append extra hopen (by rw [List.length_append, hprem]; omega), ← feed_append]
      rfl
    have hrest : (b :: (hb ++ (payload ++ (trailer ++ extra)))).drop (1 + b.toNat + payload.length + 4) = extra := by
      rw [show b :: (hb ++ (payload ++ (trailer ++ extra))) = b :: (hb ++ (payload ++ trailer)) ++ extra by simp]
      exact List.drop_left' (by simp only [List.length_cons, List.length_append]; omega)
    have hparse := parseFrame_complete Config.spec extra hlen hdecode hpayload htrailer
    have hframe := reaches_verdict hlen hdecode hpayload htrailer s
    by_cases hcrc : crc32 Config.spec payload = BitVec.ofNat 32 (beNat trailer)
    · rw [if_pos hcrc] at hparse hframe
      obtain ⟨hphase, herr, -, -, -, -, -, -, -, hrecv, hseq, hsurplus, hbytes, hhdr⟩ := hframe
      refine .inr ⟨_, _, ?_, hparse, hphase, herr, hhdr, hrecv, hseq, hbytes, hsurplus⟩
      exact hread.trans (congrArg (endRead · _) hrest.symm)
    · rw [if_neg hcrc] at hparse hframe
      obtain ⟨hphase, herr, -⟩ := hframe
      exact .inl ⟨_, _, _, hread, hparse, hphase, congrArg ErrCode.kind herr⟩

/-- Settles O60: each driver ends with the verdict of `parseFrame`, and the caller reads it from the registers. -/
theorem readFrameGivesWhatParseFrameGives : Obligations.ReadFrameGivesWhatParseFrameGives := by
  unfold Obligations.ReadFrameGivesWhatParseFrameGives
  intro raw s
  have hdatagram : datagramReadFrame raw s = endRead [] (parseAt Config.spec raw s) := by
    rw [datagramReadFrame, runInstrs_fpParse, andThen_next]
  have hended := ended_parseAt Config.spec raw s
  obtain ⟨t, rest, e, hstream, hparse, hphase, hkind⟩ | ⟨t, f, hstream, hparse, haccepted⟩ := streamReadFrame_eq raw s
  · refine ⟨_, _, hdatagram, hstream, ?_⟩
    cases hended with
    | accepted f hok h hhlen => rw [hparse] at hok; cases hok
    | failed e' herror hphase' hkind' =>
      rw [hparse] at herror
      cases herror
      obtain ⟨hresult, hheader, hreleased⟩ := read_of_failed hphase' hkind'
      obtain ⟨hresult', hheader', hreleased'⟩ := read_of_failed hphase hkind
      rw [hparse]
      exact ⟨hresult, hresult', hreleased, hreleased', hheader, hheader'⟩
  · refine ⟨_, _, hdatagram, hstream, ?_⟩
    cases hended with
    | failed e herror hphase hkind => rw [hparse] at herror; cases herror
    | accepted f' hok h hhlen =>
      rw [hparse] at hok
      cases hok
      obtain ⟨hresult, hheader, hreleased⟩ := h.read
      obtain ⟨hresult', hheader', hreleased'⟩ := haccepted.read
      rw [hparse]
      exact ⟨hresult, hresult', hheader, hheader', hreleased, hreleased', rfl, haccepted.surplus⟩

end Sys2Proof.Machine
end
